-- ==== Sys2Proof/Word.lean ====
section
/-! DEFINITION. The machine's word types (spec/00_scope.md R8, R9; spec/30_encoding.md R54). -/

namespace Sys2Proof

/-- A memory byte, a general register, SP, DT or ST: 8 bits, unsigned (R9). -/
abbrev Byte := BitVec 8

/-- An instruction word, PC, I or a stack slot: 16 bits (R19, R20, R23, R53). -/
abbrev Word := BitVec 16

/-- A 12-bit address operand NNN (R54). -/
abbrev Addr12 := BitVec 12

/-- A 4-bit field of an instruction word (R8). -/
abbrev Nibble := BitVec 4

/-- A register number 0x0..0xF: V0..VF (R15, R57). -/
abbrev Reg := Fin 16

/-- VF, the register that doubles as the flag (R16). -/
abbrev Reg.vf : Reg := 15

end Sys2Proof
end

