-- ==== Sys2Proof/Syntax.lean ====
section
/-! DEFINITION. The 34 instructions of spec/30_encoding.md R62 as one inductive type, and the
mnemonic ids that a trace record holds (R72). -/

namespace Sys2Proof

/-- One constructor per row of the opcode map (R62).  `x` and `y` are the register selectors, `nn`,
`nnn` and `n` the immediate, the address and the count (R54).  The bits a row does not examine (R60:
the low nibble of 5XY_ and 9XY_, the Y field of 8XY6 and 8XYE) are kept as `ign`, because a trace
record and a fault record hold the whole word (R31, R32). -/
inductive Instr where
  /-- 00E0 `CLS` (R73). -/
  | cls
  /-- 00EE `RET` (R80). -/
  | ret
  /-- 1NNN `JP nnn` (R81). -/
  | jp (nnn : Addr12)
  /-- 2NNN `CALL nnn` (R82). -/
  | call (nnn : Addr12)
  /-- 3XNN `SE Vx, nn` (R83). -/
  | seVxNn (x : Reg) (nn : Byte)
  /-- 4XNN `SNE Vx, nn` (R84). -/
  | sneVxNn (x : Reg) (nn : Byte)
  /-- 5XY_ `SE Vx, Vy` (R85); `ign` is w[3:0]. -/
  | seVxVy (x y : Reg) (ign : Nibble)
  /-- 6XNN `LD Vx, nn` (R90). -/
  | ldVxNn (x : Reg) (nn : Byte)
  /-- 7XNN `ADD Vx, nn` (R91). -/
  | addVxNn (x : Reg) (nn : Byte)
  /-- 8XY0 `LD Vx, Vy` (R92). -/
  | ldVxVy (x y : Reg)
  /-- 8XY1 `OR Vx, Vy` (R93). -/
  | orVxVy (x y : Reg)
  /-- 8XY2 `AND Vx, Vy` (R94). -/
  | andVxVy (x y : Reg)
  /-- 8XY3 `XOR Vx, Vy` (R95). -/
  | xorVxVy (x y : Reg)
  /-- 8XY4 `ADD Vx, Vy` (R96). -/
  | addVxVy (x y : Reg)
  /-- 8XY5 `SUB Vx, Vy` (R97). -/
  | subVxVy (x y : Reg)
  /-- 8XY6 `SHR Vx` (R98); `ign` is w[7:4]. -/
  | shrVx (x : Reg) (ign : Nibble)
  /-- 8XY7 `SUBN Vx, Vy` (R99). -/
  | subnVxVy (x y : Reg)
  /-- 8XYE `SHL Vx` (R100); `ign` is w[7:4]. -/
  | shlVx (x : Reg) (ign : Nibble)
  /-- 9XY_ `SNE Vx, Vy` (R86); `ign` is w[3:0]. -/
  | sneVxVy (x y : Reg) (ign : Nibble)
  /-- ANNN `LD I, nnn` (R106). -/
  | ldINnn (nnn : Addr12)
  /-- BNNN `JP V0, nnn` (R87). -/
  | jpV0 (nnn : Addr12)
  /-- CXNN `RND Vx, nn` (R104). -/
  | rnd (x : Reg) (nn : Byte)
  /-- DXYN `DRW Vx, Vy, n` (R74); `n` is a count 0..15 (R56). -/
  | drw (x y : Reg) (n : Nat)
  /-- EX9E `SKP Vx` (R112). -/
  | skp (x : Reg)
  /-- EXA1 `SKNP Vx` (R113). -/
  | sknp (x : Reg)
  /-- FX07 `LD Vx, DT` (R114). -/
  | ldVxDt (x : Reg)
  /-- FX0A `LD Vx, K` (R115). -/
  | ldVxK (x : Reg)
  /-- FX15 `LD DT, Vx` (R116). -/
  | ldDtVx (x : Reg)
  /-- FX18 `LD ST, Vx` (R117). -/
  | ldStVx (x : Reg)
  /-- FX1E `ADD I, Vx` (R107). -/
  | addIVx (x : Reg)
  /-- FX29 `LD F, Vx` (R108). -/
  | ldFVx (x : Reg)
  /-- FX33 `LD B, Vx` (R109). -/
  | ldBVx (x : Reg)
  /-- FX55 `LD [I], Vx` (R110). -/
  | ldMemVx (x : Reg)
  /-- FX65 `LD Vx, [I]` (R111). -/
  | ldVxMem (x : Reg)
  deriving DecidableEq, Repr

/-- The mnemonic ids of the opcode map, with NONE for a trace record never written (R72). -/
inductive Mnemonic where
  | none
  | cls | ret | jp | call | seVxNn | sneVxNn | seVxVy | ldVxNn | addVxNn
  | ldVxVy | or | and | xor | addVxVy | sub | shr | subn | shl
  | sneVxVy | ldINnn | jpV0 | rnd | drw | skp | sknp
  | ldVxDt | ldVxK | ldDtVx | ldStVx | addIVx | ldFVx | ldBVx | ldMemVx | ldVxMem
  deriving DecidableEq, Repr

/-- The number of a mnemonic id: its row's position in R62, and 0 for NONE (R72). -/
def Mnemonic.code : Mnemonic → Nat
  | .none => 0
  | .cls => 1 | .ret => 2 | .jp => 3 | .call => 4
  | .seVxNn => 5 | .sneVxNn => 6 | .seVxVy => 7 | .ldVxNn => 8 | .addVxNn => 9
  | .ldVxVy => 10 | .or => 11 | .and => 12 | .xor => 13 | .addVxVy => 14
  | .sub => 15 | .shr => 16 | .subn => 17 | .shl => 18 | .sneVxVy => 19
  | .ldINnn => 20 | .jpV0 => 21 | .rnd => 22 | .drw => 23 | .skp => 24 | .sknp => 25
  | .ldVxDt => 26 | .ldVxK => 27 | .ldDtVx => 28 | .ldStVx => 29 | .addIVx => 30
  | .ldFVx => 31 | .ldBVx => 32 | .ldMemVx => 33 | .ldVxMem => 34

/-- The mnemonic id of an instruction: the row of R62 it stands in. -/
def Instr.mnemonic : Instr → Mnemonic
  | .cls => .cls
  | .ret => .ret
  | .jp _ => .jp
  | .call _ => .call
  | .seVxNn _ _ => .seVxNn
  | .sneVxNn _ _ => .sneVxNn
  | .seVxVy _ _ _ => .seVxVy
  | .ldVxNn _ _ => .ldVxNn
  | .addVxNn _ _ => .addVxNn
  | .ldVxVy _ _ => .ldVxVy
  | .orVxVy _ _ => .or
  | .andVxVy _ _ => .and
  | .xorVxVy _ _ => .xor
  | .addVxVy _ _ => .addVxVy
  | .subVxVy _ _ => .sub
  | .shrVx _ _ => .shr
  | .subnVxVy _ _ => .subn
  | .shlVx _ _ => .shl
  | .sneVxVy _ _ _ => .sneVxVy
  | .ldINnn _ => .ldINnn
  | .jpV0 _ => .jpV0
  | .rnd _ _ => .rnd
  | .drw _ _ _ => .drw
  | .skp _ => .skp
  | .sknp _ => .sknp
  | .ldVxDt _ => .ldVxDt
  | .ldVxK _ => .ldVxK
  | .ldDtVx _ => .ldDtVx
  | .ldStVx _ => .ldStVx
  | .addIVx _ => .addIVx
  | .ldFVx _ => .ldFVx
  | .ldBVx _ => .ldBVx
  | .ldMemVx _ => .ldMemVx
  | .ldVxMem _ => .ldVxMem

end Sys2Proof
end

