-- ==== Sys2Proof/Decode.lean ====
section
/-! DEFINITION. Decode and encode of the 16-bit instruction word (spec/30_encoding.md R53 to R64),
and the opcode table's rows as masks and patterns (R62, spec/opcode_table.json). -/

namespace Sys2Proof

/-! ## Fields (R54) -/

/-- `op = w[15:12]`, the family selector. -/
def fieldOp (w : Word) : Nibble := w.extractLsb' 12 4

/-- `X = w[11:8]`, the first register selector.  Its place is general knowledge the spec adopts
(PRESUMED, log entry 4). -/
def fieldX (w : Word) : Reg := (w.extractLsb' 8 4).toFin

/-- `Y = w[7:4]`, the second register selector (PRESUMED, log entry 4). -/
def fieldY (w : Word) : Reg := (w.extractLsb' 4 4).toFin

/-- `w[7:4]` as plain bits, where the row ignores them (R60). -/
def fieldYBits (w : Word) : Nibble := w.extractLsb' 4 4

/-- `N = w[3:0]`, the low nibble. -/
def fieldN (w : Word) : Nibble := w.extractLsb' 0 4

/-- `NN = w[7:0]`, the 8-bit immediate. -/
def fieldNN (w : Word) : Byte := w.extractLsb' 0 8

/-- `NNN = w[11:0]`, the 12-bit address. -/
def fieldNNN (w : Word) : Addr12 := w.extractLsb' 0 12

/-! ## Decode -/

/-- Why bytes are no instruction. -/
inductive DecodeError where
  /-- The unimplemented-instruction condition, with the word (R61). -/
  | unimplemented (w : Word)
  /-- Fewer than the two bytes every instruction has (R53); a fetch never meets it. -/
  | truncated
  deriving DecidableEq, Repr

/-- Family 0x0: the whole word selects (R59). -/
def decodeFamily0 (w : Word) : Except DecodeError Instr :=
  if w = 0x00E0#16 then .ok .cls
  else if w = 0x00EE#16 then .ok .ret
  else .error (.unimplemented w)

/-- Family 0x8: the low nibble selects (R59). -/
def decodeFamily8 (w : Word) : Except DecodeError Instr :=
  match (fieldN w).toNat with
  | 0x0 => .ok (.ldVxVy (fieldX w) (fieldY w))
  | 0x1 => .ok (.orVxVy (fieldX w) (fieldY w))
  | 0x2 => .ok (.andVxVy (fieldX w) (fieldY w))
  | 0x3 => .ok (.xorVxVy (fieldX w) (fieldY w))
  | 0x4 => .ok (.addVxVy (fieldX w) (fieldY w))
  | 0x5 => .ok (.subVxVy (fieldX w) (fieldY w))
  | 0x6 => .ok (.shrVx (fieldX w) (fieldYBits w))
  | 0x7 => .ok (.subnVxVy (fieldX w) (fieldY w))
  | 0xE => .ok (.shlVx (fieldX w) (fieldYBits w))
  | _ => .error (.unimplemented w)

/-- Family 0xE: the low byte selects (R59). -/
def decodeFamilyE (w : Word) : Except DecodeError Instr :=
  match (fieldNN w).toNat with
  | 0x9E => .ok (.skp (fieldX w))
  | 0xA1 => .ok (.sknp (fieldX w))
  | _ => .error (.unimplemented w)

/-- Family 0xF: the low byte selects (R59). -/
def decodeFamilyF (w : Word) : Except DecodeError Instr :=
  match (fieldNN w).toNat with
  | 0x07 => .ok (.ldVxDt (fieldX w))
  | 0x0A => .ok (.ldVxK (fieldX w))
  | 0x15 => .ok (.ldDtVx (fieldX w))
  | 0x18 => .ok (.ldStVx (fieldX w))
  | 0x1E => .ok (.addIVx (fieldX w))
  | 0x29 => .ok (.ldFVx (fieldX w))
  | 0x33 => .ok (.ldBVx (fieldX w))
  | 0x55 => .ok (.ldMemVx (fieldX w))
  | 0x65 => .ok (.ldVxMem (fieldX w))
  | _ => .error (.unimplemented w)

/-- `Decode(w)` of R61: the family by the top nibble, then the second level of families 0, 8, E, F. -/
def decode (w : Word) : Except DecodeError Instr :=
  match (fieldOp w).toNat with
  | 0x0 => decodeFamily0 w
  | 0x1 => .ok (.jp (fieldNNN w))
  | 0x2 => .ok (.call (fieldNNN w))
  | 0x3 => .ok (.seVxNn (fieldX w) (fieldNN w))
  | 0x4 => .ok (.sneVxNn (fieldX w) (fieldNN w))
  | 0x5 => .ok (.seVxVy (fieldX w) (fieldY w) (fieldN w))
  | 0x6 => .ok (.ldVxNn (fieldX w) (fieldNN w))
  | 0x7 => .ok (.addVxNn (fieldX w) (fieldNN w))
  | 0x8 => decodeFamily8 w
  | 0x9 => .ok (.sneVxVy (fieldX w) (fieldY w) (fieldN w))
  | 0xA => .ok (.ldINnn (fieldNNN w))
  | 0xB => .ok (.jpV0 (fieldNNN w))
  | 0xC => .ok (.rnd (fieldX w) (fieldNN w))
  | 0xD => .ok (.drw (fieldX w) (fieldY w) (fieldN w).toNat)
  | 0xE => decodeFamilyE w
  | 0xF => decodeFamilyF w
  | _ => .error (.unimplemented w)

/-- The word of two bytes, high byte first (R38, R53). -/
def wordOfBytes (hi lo : Byte) : Word := hi ++ lo

/-- The high byte of a word, bits 15..8, stored at the lower address (R38). -/
def highByte (w : Word) : Byte := w.extractLsb' 8 8

/-- The low byte of a word, bits 7..0, stored at the higher address (R38). -/
def lowByte (w : Word) : Byte := w.extractLsb' 0 8

/-- Decode the first instruction of any bytes; it takes two (R53). -/
def decodeBytes : List Byte → Except DecodeError (Instr × List Byte)
  | hi :: lo :: rest =>
    match decode (wordOfBytes hi lo) with
    | .ok i => .ok (i, rest)
    | .error e => .error e
  | [_] => .error .truncated
  | [] => .error .truncated

/-- The word that the opcode table numbers as the low `nbits` bits of `w`, the bits above zero. -/
def tableWord (nbits w : Nat) : Word := BitVec.ofNat 16 (w % 2 ^ nbits)

/-- What the decoder reads from an instruction laid out as the hardware stores it. -/
def decodeTableWord (nbits w : Nat) : Option Instr :=
  match decodeBytes [highByte (tableWord nbits w), lowByte (tableWord nbits w)] with
  | .ok (i, _) => some i
  | .error _ => none

/-! ## Encode (R55) -/

/-- A register number as the four bits of its selector field (R57). -/
def regBits (r : Reg) : Nibble := BitVec.ofFin r

/-- Format `NNN`. -/
def encodeNNN (op : Nibble) (nnn : Addr12) : Word := op ++ nnn

/-- Format `XNN`. -/
def encodeXNN (op : Nibble) (x : Reg) (nn : Byte) : Word := op ++ (regBits x ++ nn : Addr12)

/-- Formats `XY` and `XYN`. -/
def encodeXYN (op : Nibble) (x : Reg) (y n : Nibble) : Word :=
  op ++ (regBits x ++ (y ++ n : Byte) : Addr12)

/-- The instruction's word, from the opcode map (R62).  The count of DRW is taken modulo 16, which
changes nothing for a well-formed instruction. -/
def encode : Instr → Word
  | .cls => 0x00E0
  | .ret => 0x00EE
  | .jp nnn => encodeNNN 0x1 nnn
  | .call nnn => encodeNNN 0x2 nnn
  | .seVxNn x nn => encodeXNN 0x3 x nn
  | .sneVxNn x nn => encodeXNN 0x4 x nn
  | .seVxVy x y ign => encodeXYN 0x5 x (regBits y) ign
  | .ldVxNn x nn => encodeXNN 0x6 x nn
  | .addVxNn x nn => encodeXNN 0x7 x nn
  | .ldVxVy x y => encodeXYN 0x8 x (regBits y) 0x0
  | .orVxVy x y => encodeXYN 0x8 x (regBits y) 0x1
  | .andVxVy x y => encodeXYN 0x8 x (regBits y) 0x2
  | .xorVxVy x y => encodeXYN 0x8 x (regBits y) 0x3
  | .addVxVy x y => encodeXYN 0x8 x (regBits y) 0x4
  | .subVxVy x y => encodeXYN 0x8 x (regBits y) 0x5
  | .shrVx x ign => encodeXYN 0x8 x ign 0x6
  | .subnVxVy x y => encodeXYN 0x8 x (regBits y) 0x7
  | .shlVx x ign => encodeXYN 0x8 x ign 0xE
  | .sneVxVy x y ign => encodeXYN 0x9 x (regBits y) ign
  | .ldINnn nnn => encodeNNN 0xA nnn
  | .jpV0 nnn => encodeNNN 0xB nnn
  | .rnd x nn => encodeXNN 0xC x nn
  | .drw x y n => encodeXYN 0xD x (regBits y) (BitVec.ofNat 4 n)
  | .skp x => encodeXNN 0xE x 0x9E
  | .sknp x => encodeXNN 0xE x 0xA1
  | .ldVxDt x => encodeXNN 0xF x 0x07
  | .ldVxK x => encodeXNN 0xF x 0x0A
  | .ldDtVx x => encodeXNN 0xF x 0x15
  | .ldStVx x => encodeXNN 0xF x 0x18
  | .addIVx x => encodeXNN 0xF x 0x1E
  | .ldFVx x => encodeXNN 0xF x 0x29
  | .ldBVx x => encodeXNN 0xF x 0x33
  | .ldMemVx x => encodeXNN 0xF x 0x55
  | .ldVxMem x => encodeXNN 0xF x 0x65

/-! ## The opcode table's rows (R62, spec/opcode_table.json) -/

/-- The bits a row fixes. -/
def Mnemonic.mask : Mnemonic → Word
  | .none => 0x0000
  | .cls | .ret => 0xFFFF
  | .jp | .call | .seVxNn | .sneVxNn | .seVxVy | .ldVxNn | .addVxNn | .sneVxVy
  | .ldINnn | .jpV0 | .rnd | .drw => 0xF000
  | .ldVxVy | .or | .and | .xor | .addVxVy | .sub | .shr | .subn | .shl => 0xF00F
  | .skp | .sknp | .ldVxDt | .ldVxK | .ldDtVx | .ldStVx | .addIVx | .ldFVx | .ldBVx
  | .ldMemVx | .ldVxMem => 0xF0FF

/-- The values a row gives the bits it fixes. -/
def Mnemonic.pattern : Mnemonic → Word
  | .none => 0x0000
  | .cls => 0x00E0
  | .ret => 0x00EE
  | .jp => 0x1000
  | .call => 0x2000
  | .seVxNn => 0x3000
  | .sneVxNn => 0x4000
  | .seVxVy => 0x5000
  | .ldVxNn => 0x6000
  | .addVxNn => 0x7000
  | .ldVxVy => 0x8000
  | .or => 0x8001
  | .and => 0x8002
  | .xor => 0x8003
  | .addVxVy => 0x8004
  | .sub => 0x8005
  | .shr => 0x8006
  | .subn => 0x8007
  | .shl => 0x800E
  | .sneVxVy => 0x9000
  | .ldINnn => 0xA000
  | .jpV0 => 0xB000
  | .rnd => 0xC000
  | .drw => 0xD000
  | .skp => 0xE09E
  | .sknp => 0xE0A1
  | .ldVxDt => 0xF007
  | .ldVxK => 0xF00A
  | .ldDtVx => 0xF015
  | .ldStVx => 0xF018
  | .addIVx => 0xF01E
  | .ldFVx => 0xF029
  | .ldBVx => 0xF033
  | .ldMemVx => 0xF055
  | .ldVxMem => 0xF065

/-- The 34 rows of the opcode map, in its order (R62). -/
def opcodeRows : List Mnemonic :=
  [.cls, .ret, .jp, .call, .seVxNn, .sneVxNn, .seVxVy, .ldVxNn, .addVxNn] ++
  [.ldVxVy, .or, .and, .xor, .addVxVy, .sub, .shr, .subn, .shl, .sneVxVy] ++
  [.ldINnn, .jpV0, .rnd, .drw, .skp, .sknp, .ldVxDt, .ldVxK, .ldDtVx, .ldStVx] ++
  [.addIVx, .ldFVx, .ldBVx, .ldMemVx, .ldVxMem]

/-- The word fits the row: its fixed bits have the row's values. -/
def Mnemonic.fits (m : Mnemonic) (w : Word) : Bool := w &&& m.mask == m.pattern

end Sys2Proof
end

