-- ==== Sys2Proof/Config.lean ====
section
/-! DEFINITION. What is fixed for one machine: the constants and the named parameters of
spec/00_scope.md R7, and the free draw of the random source (spec/42_alu.md R105). -/

namespace Sys2Proof

/-- `MEM_SIZE` (R7, R37): byte addresses 0x000..0xFFF. -/
abbrev memSize : Nat := 4096

/-- `PROG_BASE` (R7): where INIT copies the program and where PC starts. -/
abbrev progBase : Nat := 0x200

/-- `PROG_MAX` (R7): the longest program INIT accepts (R144). -/
abbrev progMax : Nat := 3584

/-- `FONT_BASE` (R7, R43): the address of glyph 0. -/
abbrev fontBase : Nat := 0x100

/-- 16 glyphs of 5 bytes (R7). -/
abbrev fontSize : Nat := 80

/-- The glyph bytes, parameter `FONT` (R7, R44). -/
abbrev Font := Vector Byte 80

/-- Parameter `VF_ORDER` (R7, R101): which write of a flag-setting ALU instruction comes last. -/
inductive VfOrder where
  | flagLast
  | resultLast
  deriving DecidableEq, Repr

/-- The named parameters a model takes as arguments (R7), fixed for one machine.  They stand in one
field of `State` that no transaction changes, so a statement about every state holds for every value
of both.  DESIGN CHOICE (log entries 1 and 2). -/
structure Config where
  /-- `FONT`: the 80 glyph bytes. -/
  font : Font
  /-- `VF_ORDER`: the order of the result and the flag write. -/
  vfOrder : VfOrder
  deriving DecidableEq, Repr

/-- The conventional font, the spec's default of `FONT` (R44, marked there as general knowledge).
PRESUMED (log entry 1): unsafe for a claim that leans on a glyph's pixels. -/
def Config.defaultFont : Font :=
  #v[0xF0, 0x90, 0x90, 0x90, 0xF0, -- 0
     0x20, 0x60, 0x20, 0x20, 0x70, -- 1
     0xF0, 0x10, 0xF0, 0x80, 0xF0, -- 2
     0xF0, 0x10, 0xF0, 0x10, 0xF0, -- 3
     0x90, 0x90, 0xF0, 0x10, 0x10, -- 4
     0xF0, 0x80, 0xF0, 0x10, 0xF0, -- 5
     0xF0, 0x80, 0xF0, 0x90, 0xF0, -- 6
     0xF0, 0x10, 0x20, 0x40, 0x40, -- 7
     0xF0, 0x90, 0xF0, 0x90, 0xF0, -- 8
     0xF0, 0x90, 0xF0, 0x10, 0xF0, -- 9
     0xF0, 0x90, 0xF0, 0x90, 0x90, -- A
     0xE0, 0x90, 0xE0, 0x90, 0xE0, -- B
     0xF0, 0x80, 0x80, 0x80, 0xF0, -- C
     0xE0, 0x90, 0x90, 0x90, 0xE0, -- D
     0xF0, 0x80, 0xF0, 0x80, 0xF0, -- E
     0xF0, 0x80, 0xF0, 0x80, 0x80] -- F

/-- The parameters at the spec's defaults (R7: the default font, `FLAG_LAST`). -/
def Config.default : Config := { font := Config.defaultFont, vfOrder := .flagLast }

/-- The random source behind RND, parameter `RNG` (R34, R105): the n-th 32-bit draw.  FREE VALUE
(log entry 3): it has no body, so nothing can be proved of its value; safe. -/
opaque Config.draw : Nat → BitVec 32

end Sys2Proof
end

