-- ==== Sys2Proof/Machine/Memory.lean ====
section
/-! DEFINITION. The 4096-byte memory as a list of (address, byte) pairs in one canonical form
(spec/20_memory.md R37, R43, R46): addresses strictly rising and below 4096, and no pair that holds
what its address reads as when it is not listed. -/

namespace Sys2Proof.Machine

/-- Memory: the bytes that differ from what INIT leaves outside the program (R37, R43). -/
abbrev Memory := List Host.Cell

/-- What an address that is not listed reads as: INIT's contents outside the program, that is the
font at 0x100..0x14F and 0x00 everywhere else (R37, R43; log entry 9). -/
def unlistedByte (font : Font) (a : Nat) : Byte :=
  if h : fontBase ≤ a ∧ a < fontBase + fontSize then font[a - fontBase]'(by
    simp only [fontBase, fontSize] at h ⊢; omega) else 0x00

/-- The byte at an address (R46). -/
def memoryRead (font : Font) : Memory → Nat → Byte
  | [], a => unlistedByte font a
  | c :: m, a => if a = c.1 then c.2 else memoryRead font m a

/-- A memory in which an address is not listed. -/
def memoryErase (m : Memory) (a : Nat) : Memory := m.filter (fun c => c.1 != a)

/-- A pair put in at its place in a memory that does not list its address. -/
def memoryInsert (a : Nat) (b : Byte) : Memory → Memory
  | [] => [(a, b)]
  | c :: m => if a < c.1 then (a, b) :: c :: m else c :: memoryInsert a b m

/-- Store one byte (R46); the canonical form is kept.  Callers have checked the address (R41). -/
def memoryWrite (font : Font) (m : Memory) (a : Nat) (b : Byte) : Memory :=
  if b = unlistedByte font a then memoryErase m a else memoryInsert a b (memoryErase m a)

/-- Store bytes at consecutive addresses (R40). -/
def memoryWriteBytes (font : Font) : Memory → Nat → List Byte → Memory
  | m, _, [] => m
  | m, a, b :: bs => memoryWriteBytes font (memoryWrite font m a b) (a + 1) bs

/-- The memory in which the given bytes stand from an address on and every other address is
unlisted: what INIT makes of the program bytes (R52, R143). -/
def memoryOfBytes (font : Font) : Nat → List Byte → Memory
  | _, [] => []
  | a, b :: bs =>
    if b = unlistedByte font a then memoryOfBytes font (a + 1) bs
    else (a, b) :: memoryOfBytes font (a + 1) bs

/-- The canonical form, from an address on: every listed address is at least `lo` and below 4096,
they rise strictly, and none lists what it would read as unlisted. -/
def memoryWfFrom (font : Font) : Nat → Memory → Bool
  | _, [] => true
  | lo, c :: m =>
    decide (lo ≤ c.1) && decide (c.1 < memSize) && decide (c.2 ≠ unlistedByte font c.1)
      && memoryWfFrom font (c.1 + 1) m

/-- The canonical form of a memory. -/
def Memory.wf (font : Font) (m : Memory) : Bool := memoryWfFrom font 0 m

end Sys2Proof.Machine
end

