-- ==== Sys2Proof/Machine/State.lean ====
section
/-! DEFINITION. The machine state of spec/10_state.md R36, the faults of spec/60_exceptions.md R118
and the state INIT leaves (spec/70_reset_and_hazards.md R143). -/

namespace Sys2Proof.Machine

/-- The cause field of the fault record (R118). -/
inductive Cause where
  | none
  | unimplemented
  | memRange
  | stackOverflow
  | stackUnderflow
  | keyRange
  deriving DecidableEq, Repr

/-- What a STEP can raise (R118), with the detail it records.  Every one is the spec's own fault, and
none leaves `exec` or `step`: fault entry (R129) turns it into a next state in which `State.fault`
records it, so each of them is safe. -/
inductive Fault where
  /-- UNIMPLEMENTED: raised by decode for every word that no row of the opcode map fits (R61, R119).
  Safe: the spec's own fault. -/
  | unimplemented (w : Word)
  /-- MEM_RANGE: raised by the fetch, DRW, FX33, FX55 and FX65 with the lowest byte address that is
  4096 or above (R41, R120).  Safe: the spec's own fault. -/
  | memRange (addr : Nat)
  /-- STACK_OVERFLOW: raised by CALL with SP > 15 (R24, R121).  Safe: the spec's own fault. -/
  | stackOverflow (sp : Byte)
  /-- STACK_UNDERFLOW: raised by RET when SP + 1 (8 bits) > 15 (R24, R122).  Safe: the spec's own
  fault. -/
  | stackUnderflow (sp : Byte)
  /-- KEY_RANGE: raised by SKP and SKNP with VX > 15 (R112, R113, R123).  Safe: the spec's own
  fault. -/
  | keyRange (vx : Byte)
  deriving DecidableEq, Repr

/-- What the model gives no meaning. -/
inductive Refusal where
  /-- Raised by an arm of `exec` whose instruction has no meaning yet: no arm of this model is one.
  Safe: nothing can be proved of a step that is not there. -/
  | notModelled (mnemonic : String)
  /-- Raised by `transact` for a transaction other than INIT before the first accepted INIT (R128,
  R146).  Safe: the spec refuses it too. -/
  | beforeFirstInit
  deriving DecidableEq, Repr

/-- The FAULT status record (R32). -/
structure FaultRecord where
  /-- 1 while the engine is halted (R129, R130). -/
  halted : Bool
  /-- The cause (R118). -/
  cause : Cause
  /-- The fetch address of the faulting step. -/
  addr : Word
  /-- The instruction word, 0 when the fetch itself faulted. -/
  op : Word
  /-- The detail that R118 gives for each cause. -/
  info : Word
  deriving DecidableEq, Repr

/-- No fault: every field 0 (R32). -/
def FaultRecord.clear : FaultRecord :=
  { halted := false, cause := .none, addr := 0, op := 0, info := 0 }

/-- A record of the instruction trace (R31). -/
structure TraceRecord where
  /-- The fetch address of the instruction. -/
  addr : Word
  /-- The instruction word. -/
  op : Word
  /-- Its mnemonic id. -/
  mn : Mnemonic
  deriving DecidableEq, Repr

/-- A record never written (R31). -/
def TraceRecord.zero : TraceRecord := { addr := 0, op := 0, mn := .none }

/-- The framebuffer: 32 rows of 64 pixels, `fb[y][x]` (R28). -/
abbrev Framebuffer := Vector (Vector Bool 64) 32

/-- The complete machine state (R36), with the parameters of R7 and the count of draws taken. -/
structure State where
  /-- Memory (R37). -/
  mem : Memory
  /-- V0..VF (R15). -/
  v : Vector Byte 16
  /-- The index register I (R19). -/
  i : Word
  /-- The program counter; at the start of a STEP, the fetch address (R20). -/
  pc : Word
  /-- The stack pointer (R24). -/
  sp : Byte
  /-- The call stack (R23). -/
  stack : Vector Word 16
  /-- The delay timer (R26). -/
  dt : Byte
  /-- The sound timer (R27). -/
  st : Byte
  /-- The framebuffer (R28). -/
  fb : Framebuffer
  /-- The keypad, `true` for pressed (R29). -/
  keypad : Vector Bool 16
  /-- The instruction trace (R30). -/
  trace : Vector TraceRecord 16
  /-- The write position of the trace, 4 bits (R30). -/
  tpos : Fin 16
  /-- The fault status record (R32). -/
  fault : FaultRecord
  /-- The program bytes of the last accepted INIT, `ROM_IMAGE` (R35). -/
  rom : List Byte
  /-- The MODEL'S own field: the parameters FONT and VF_ORDER (R7), which nothing changes. -/
  cfg : Config
  /-- The MODEL'S own field: how many draws RND has taken from the random source (R105). -/
  rngIndex : Nat
  deriving DecidableEq, Repr

/-- The machine right after INIT of the empty program (R143, R157), with the parameters at the
spec's defaults (R7; log entries 1 and 2) and no draw taken yet (DESIGN CHOICE, log entry 3). -/
def State.reset : State where
  mem := []
  v := Vector.replicate 16 0x00
  i := 0x0000
  pc := 0x0200
  sp := 15
  stack := Vector.replicate 16 0x0000
  dt := 0x00
  st := 0x00
  fb := Vector.replicate 32 (Vector.replicate 64 false)
  keypad := Vector.replicate 16 false
  trace := Vector.replicate 16 TraceRecord.zero
  tpos := 0
  fault := FaultRecord.clear
  rom := []
  cfg := Config.default
  rngIndex := 0

end Sys2Proof.Machine
end

