-- ==== Sys2Proof/Machine/Ops.lean ====
section
/-! DEFINITION. The named operations over the state: register, memory, stack, trace and keypad
accessors, the handler wrapper of a STEP (spec/30_encoding.md R67), and fault entry
(spec/60_exceptions.md R129).  The spec has no return from a fault (R131). -/

namespace Sys2Proof.Machine

/-! ## Registers (R15, R19, R20, R26, R27) -/

/-- Read Vx. -/
def State.getV (s : State) (x : Reg) : Byte := s.v[x]

/-- Write Vx. -/
def State.setV (s : State) (x : Reg) (b : Byte) : State := { s with v := s.v.set x b }

/-- Replace the whole register file (FX65, R111). -/
def State.setVs (s : State) (vs : Vector Byte 16) : State := { s with v := vs }

/-- Write I. -/
def State.setI (s : State) (w : Word) : State := { s with i := w }

/-- Write PC. -/
def State.setPc (s : State) (w : Word) : State := { s with pc := w }

/-- Write DT. -/
def State.setDt (s : State) (b : Byte) : State := { s with dt := b }

/-- Write ST. -/
def State.setSt (s : State) (b : Byte) : State := { s with st := b }

/-- Write the framebuffer. -/
def State.setFb (s : State) (fb : Framebuffer) : State := { s with fb := fb }

/-- Write one keypad flag (R135). -/
def State.setKeypad (s : State) (k : Reg) (pressed : Bool) : State :=
  { s with keypad := s.keypad.set k pressed }

/-- PC one instruction further, modulo 2^16 (R20, R22, R69): the advance of the fetch, and once more
the skip of a conditional skip (R88). -/
def State.advancePc (s : State) : State := s.setPc (s.pc + 2)

/-- PC one instruction back, modulo 2^16 (R115). -/
def State.rollBackPc (s : State) : State := s.setPc (s.pc - 2)

/-- One draw from the random source taken (R105). -/
def State.takeDraw (s : State) : State := { s with rngIndex := s.rngIndex + 1 }

/-- The draw that the next RND takes: a free value (R105; log entry 3). -/
def State.nextDraw (s : State) : BitVec 32 := Config.draw s.rngIndex

/-! ## Memory (R37, R40, R41) -/

/-- The byte at an address below 4096. -/
def State.readByte (s : State) (a : Nat) : Byte := memoryRead s.cfg.font s.mem a

/-- Replace memory. -/
def State.setMem (s : State) (m : Memory) : State := { s with mem := m }

/-- Store bytes at consecutive addresses, already checked. -/
def State.storeBytes (s : State) (a : Nat) (bs : List Byte) : State :=
  s.setMem (memoryWriteBytes s.cfg.font s.mem a bs)

/-- The range check of an access of `n` bytes at `a`: the lowest byte address at 4096 or above is
raised as MEM_RANGE; with `n = 0` nothing is accessed (R41, R125). -/
def checkRange (a : Nat) : Nat → Except Fault Unit
  | 0 => .ok ()
  | n + 1 => if memSize ≤ a then .error (.memRange a) else checkRange (a + 1) n

/-- The bytes at `a, a + 1, ..., a + n - 1`, unchecked. -/
def State.bytesAt (s : State) : Nat → Nat → List Byte
  | _, 0 => []
  | a, n + 1 => s.readByte a :: s.bytesAt (a + 1) n

/-- `MemRead(a, n)` of R41, as the list of its bytes. -/
def State.memRead (s : State) (a n : Nat) : Except Fault (List Byte) :=
  match checkRange a n with
  | .ok () => .ok (s.bytesAt a n)
  | .error f => .error f

/-- `MemWrite(a, n, v)` of R41, with the bytes of `v` as a list: all of them or none (R47). -/
def State.memWrite (s : State) (a : Nat) (bs : List Byte) : Except Fault State :=
  match checkRange a bs.length with
  | .ok () => .ok (s.storeBytes a bs)
  | .error f => .error f

/-! ## Call stack (R23, R24) -/

/-- The push that R24 does once its check has passed. -/
def State.pushed (s : State) (w : Word) : State :=
  { s with stack := s.stack.setIfInBounds s.sp.toNat w, sp := s.sp - 1 }

/-- `Push(v)` (R24): STACK_OVERFLOW when SP > 15, checked before any write. -/
def State.push (s : State) (w : Word) : Except Fault State :=
  if s.sp.toNat < 16 then .ok (s.pushed w) else .error (.stackOverflow s.sp)

/-- Write SP. -/
def State.setSp (s : State) (b : Byte) : State := { s with sp := b }

/-- `Pop()` (R24): STACK_UNDERFLOW when SP + 1, in 8 bits, is above 15; the slot keeps its content. -/
def State.pop (s : State) : Except Fault (Word × State) :=
  if h : (s.sp + 1).toNat < 16 then .ok (s.stack[(s.sp + 1).toNat], s.setSp (s.sp + 1))
  else .error (.stackUnderflow s.sp)

/-! ## Trace (R30, R71) -/

/-- `trace_append(addr, w, m)` of R71. -/
def State.traceAppend (s : State) (addr w : Word) (m : Mnemonic) : State :=
  { s with trace := s.trace.set s.tpos { addr := addr, op := w, mn := m }, tpos := s.tpos + 1 }

/-! ## Fault entry (R118, R129) -/

/-- The cause a fault records (R118). -/
def Fault.cause : Fault → Cause
  | .unimplemented _ => .unimplemented
  | .memRange _ => .memRange
  | .stackOverflow _ => .stackOverflow
  | .stackUnderflow _ => .stackUnderflow
  | .keyRange _ => .keyRange

/-- The detail a fault records, in 16 bits (R118). -/
def Fault.info : Fault → Word
  | .unimplemented w => w
  | .memRange a => BitVec.ofNat 16 a
  | .stackOverflow sp => sp.setWidth 16
  | .stackUnderflow sp => sp.setWidth 16
  | .keyRange vx => vx.setWidth 16

/-- The code of a cause, 3 bits (R118). -/
def Cause.code : Cause → BitVec 3
  | .none => 0
  | .unimplemented => 1
  | .memRange => 2
  | .stackOverflow => 3
  | .stackUnderflow => 4
  | .keyRange => 5

/-- Fault entry (R129), on the state at the START of the STEP: everything as it was, PC at the fetch
address, no trace record, and FAULT set.  `op` is the word, or 0 when the fetch faulted. -/
def State.takeFault (s : State) (f : Fault) (op : Word) : State :=
  { s with fault := { halted := true, cause := f.cause, addr := s.pc, op := op, info := f.info } }

/-! ## One instruction of a STEP (R67, R70) -/

/-- What runs an instruction once PC is advanced: it gives the new state or raises a fault. -/
abbrev Handler := State → Except Fault State

/-- An instruction within a STEP, on the state at the start of the STEP, whose PC is the fetch
address: PC is advanced (R69), the handler runs (R70), a trace record is appended (R71); a fault the
handler raises undoes all of it and is recorded (R129). -/
def runHandler (i : Instr) (h : Handler) (s : State) : Host.Outcome State Fault Refusal :=
  match h s.advancePc with
  | .ok t => .next (t.traceAppend s.pc (encode i) i.mnemonic)
  | .error f => .next (s.takeFault f (encode i))

/-! ## Fetch (R68) -/

/-- The instruction word at PC, high byte first (R38, R68). -/
def State.fetchWord (s : State) : Except Fault Word :=
  match checkRange s.pc.toNat 2 with
  | .ok () => .ok (wordOfBytes (s.readByte s.pc.toNat) (s.readByte (s.pc.toNat + 1)))
  | .error f => .error f

/-- Fetch and decode (R67): the instruction, or the state in which the STEP ends by a fault of the
fetch (recorded with op 0) or of decode (recorded with the word). -/
def State.fetchInstr (s : State) : Except State Instr :=
  match s.fetchWord with
  | .error f => .error (s.takeFault f 0)
  | .ok w =>
    match decode w with
    | .ok i => .ok i
    | .error _ => .error (s.takeFault (.unimplemented w) w)

/-! ## A word placed where the next STEP fetches (the host's question, log entry 8) -/

/-- Where the next STEP can fetch: PC, or PROG_BASE when no word can be fetched at PC. -/
def State.fetchable (s : State) : State :=
  if s.pc.toNat + 1 < memSize then s else s.setPc (BitVec.ofNat 16 progBase)

/-- Not halted: FAULT clear if a fault is recorded. -/
def State.running (s : State) : State :=
  if s.fault.halted then { s with fault := FaultRecord.clear } else s

/-- The word stored at PC, high byte first (R38). -/
def State.storeWordAtPc (s : State) (w : Word) : State :=
  s.storeBytes s.pc.toNat [highByte w, lowByte w]

/-- The state whose next STEP fetches the word. -/
def State.placeWord (s : State) (w : Word) : State := s.running.fetchable.storeWordAtPc w

end Sys2Proof.Machine
end

