-- ==== Sys2Proof/Machine/Operands.lean ====
section
/-! DEFINITION. The operand forms: immediates and addresses (spec/30_encoding.md R56), register
ranges V0..VX (spec/43_index_memory.md R110, R111), BCD digits (R109), glyph addresses (R108), sprite
rows (spec/40_display.md R74 to R78) and the keypad scan (spec/44_keypad_timers.md R115). -/

namespace Sys2Proof.Machine

/-! ## Addresses -/

/-- NNN zero-extended to 16 bits (R56). -/
def wordOfAddr (nnn : Addr12) : Word := nnn.setWidth 16

/-- NNN + V0, which never wraps (R87). -/
def offsetTarget (nnn : Addr12) (v0 : Byte) : Word := wordOfAddr nnn + v0.setWidth 16

/-- The address of a glyph: 0x100 + 5 * VX, VX not masked (R108). -/
def glyphAddr (vx : Byte) : Word := BitVec.ofNat 16 (fontBase + 5 * vx.toNat)

/-! ## Register ranges -/

/-- The values of V0..VX, X included (R110). -/
def State.dumpV (s : State) (x : Reg) : List Byte := s.v.toList.take (x.val + 1)

/-- The registers with `bs` written to register `k`, `k + 1`, and so on (R111). -/
def loadFrom (v : Vector Byte 16) : Nat → List Byte → Vector Byte 16
  | _, [] => v
  | k, b :: bs => if h : k < 16 then loadFrom (v.set k b h) (k + 1) bs else v

/-! ## BCD -/

/-- The hundreds, tens and ones digits (R109). -/
def bcdDigits (v : Byte) : List Byte :=
  [BitVec.ofNat 8 (v.toNat / 100), BitVec.ofNat 8 (v.toNat / 10 % 10), BitVec.ofNat 8 (v.toNat % 10)]

/-! ## Keypad -/

/-- The lowest pressed key, if any is pressed (R115). -/
def State.lowestKey (s : State) : Option Nat := s.keypad.toList.findIdx? id

/-- `keypad[k]` for a register's value; KEY_RANGE when it is above 15 (R112, R113). -/
def State.keyAt (s : State) (k : Byte) : Except Fault Bool :=
  if h : k.toNat < 16 then .ok s.keypad[k.toNat] else .error (.keyRange k)

/-- A conditional skip: PC past the next word if the condition holds (R88). -/
def State.skipIf (s : State) (c : Bool) : State := if c then s.advancePc else s

/-! ## Sprites -/

/-- A framebuffer being drawn on, and whether a pixel went from 1 to 0 so far (R78). -/
structure Blit where
  fb : Framebuffer
  hit : Bool
  deriving DecidableEq, Repr

/-- XOR a 1 into the pixel at column `px`, row `py`; a pixel outside the grid is skipped (R76). -/
def drawPixel (d : Blit) (px py : Nat) : Blit :=
  if h : px < 64 ∧ py < 32 then
    { fb := d.fb.set py (d.fb[py].set px (!d.fb[py][px]) h.1) h.2, hit := d.hit || d.fb[py][px] }
  else d

/-- The column of a row byte with `c` columns still to draw: bit 7 at column `x0`, bit 0 at
`x0 + 7` (R75; the order is general knowledge the spec adopts, PRESUMED, log entry 5). -/
def drawColumns (b : Byte) (x0 py : Nat) : Nat → Blit → Blit
  | 0, d => d
  | c + 1, d => drawColumns b x0 py c (if b.getLsbD c then drawPixel d (x0 + (7 - c)) py else d)

/-- One row byte drawn at row `py` (R74). -/
def drawRow (b : Byte) (x0 py : Nat) (d : Blit) : Blit := drawColumns b x0 py 8 d

/-- The row bytes drawn from row `py` downwards (R74). -/
def drawRows (x0 : Nat) : Nat → List Byte → Blit → Blit
  | _, [], d => d
  | py, b :: bs, d => drawRows x0 (py + 1) bs (drawRow b x0 py d)

/-- The sprite drawn on a framebuffer at column `x0`, row `y0`, with no collision yet (R74). -/
def drawSprite (fb : Framebuffer) (x0 y0 : Nat) (rows : List Byte) : Blit :=
  drawRows x0 y0 rows { fb := fb, hit := false }

/-- Every pixel 0 (R73). -/
def blankFb : Framebuffer := Vector.replicate 32 (Vector.replicate 64 false)

/-- `fb[y][x]`; a pixel off the grid reads as 0. -/
def pixelAt (fb : Framebuffer) (y x : Nat) : Bool :=
  if h : x < 64 ∧ y < 32 then (fb[y]'h.2)[x]'h.1 else false

end Sys2Proof.Machine
end

