-- ==== Sys2Proof/Machine/Flags.lean ====
section
/-! DEFINITION. The flag computations of the ALU and the order in which result and flag are written
(spec/42_alu.md R96 to R101). -/

namespace Sys2Proof.Machine

/-- A flag as the byte VF holds. -/
def flagByte (f : Bool) : Byte := if f then 0x01 else 0x00

/-- A result and the flag that goes to VF, both from the operands before any write (R101). -/
structure AluResult where
  result : Byte
  flag : Bool
  deriving DecidableEq, Repr

/-- Add: the exact sum cut to 8 bits, the carry (R96). -/
def aluAdd (a b : Byte) : AluResult where
  result := BitVec.ofNat 8 (a.toNat + b.toNat)
  flag := decide (a.toNat + b.toNat > 255)

/-- Subtract `b` from `a`: modulo 256, and NOT borrow (R97; R99 with the operands exchanged). -/
def aluSub (a b : Byte) : AluResult where
  result := BitVec.ofNat 8 (a.toNat + 256 - b.toNat)
  flag := decide (b.toNat ≤ a.toNat)

/-- Shift right by one, the bit shifted out (R98). -/
def aluShr (a : Byte) : AluResult where
  result := a >>> 1
  flag := a.getLsbD 0

/-- Shift left by one, the bit shifted out (R100). -/
def aluShl (a : Byte) : AluResult where
  result := a <<< 1
  flag := a.getLsbD 7

/-- `WriteResultAndFlag(X, r, f)` (R101): the two writes in the order `VF_ORDER` gives; the order
matters only when X = F. -/
def State.writeResultAndFlag (s : State) (x : Reg) (r : AluResult) : State :=
  match s.cfg.vfOrder with
  | .flagLast => (s.setV x r.result).setV Reg.vf (flagByte r.flag)
  | .resultLast => (s.setV Reg.vf (flagByte r.flag)).setV x r.result

end Sys2Proof.Machine
end

