-- ==== Sys2Proof/Machine/Alu.lean ====
section
/-! DEFINITION. Immediate loads and adds, the family 8 operations and RND (spec/42_alu.md). -/

namespace Sys2Proof.Machine

/-- LD Vx, nn (R90). -/
def execLdVxNn (x : Reg) (nn : Byte) (s : State) : Host.Outcome State Fault Refusal :=
  runHandler (.ldVxNn x nn) (fun s => .ok (s.setV x nn)) s

/-- ADD Vx, nn (R91): no flag. -/
def execAddVxNn (x : Reg) (nn : Byte) (s : State) : Host.Outcome State Fault Refusal :=
  runHandler (.addVxNn x nn) (fun s => .ok (s.setV x (s.getV x + nn))) s

/-- LD Vx, Vy (R92). -/
def execLdVxVy (x y : Reg) (s : State) : Host.Outcome State Fault Refusal :=
  runHandler (.ldVxVy x y) (fun s => .ok (s.setV x (s.getV y))) s

/-- OR Vx, Vy (R93): VF is not touched unless X = F. -/
def execOrVxVy (x y : Reg) (s : State) : Host.Outcome State Fault Refusal :=
  runHandler (.orVxVy x y) (fun s => .ok (s.setV x (s.getV x ||| s.getV y))) s

/-- AND Vx, Vy (R94). -/
def execAndVxVy (x y : Reg) (s : State) : Host.Outcome State Fault Refusal :=
  runHandler (.andVxVy x y) (fun s => .ok (s.setV x (s.getV x &&& s.getV y))) s

/-- XOR Vx, Vy (R95). -/
def execXorVxVy (x y : Reg) (s : State) : Host.Outcome State Fault Refusal :=
  runHandler (.xorVxVy x y) (fun s => .ok (s.setV x (s.getV x ^^^ s.getV y))) s

/-- ADD Vx, Vy (R96). -/
def execAddVxVy (x y : Reg) (s : State) : Host.Outcome State Fault Refusal :=
  runHandler (.addVxVy x y)
    (fun s => .ok (s.writeResultAndFlag x (aluAdd (s.getV x) (s.getV y)))) s

/-- SUB Vx, Vy (R97). -/
def execSubVxVy (x y : Reg) (s : State) : Host.Outcome State Fault Refusal :=
  runHandler (.subVxVy x y)
    (fun s => .ok (s.writeResultAndFlag x (aluSub (s.getV x) (s.getV y)))) s

/-- SHR Vx (R98): VX is shifted, the Y field is not used (R60). -/
def execShrVx (x : Reg) (ign : Nibble) (s : State) : Host.Outcome State Fault Refusal :=
  runHandler (.shrVx x ign) (fun s => .ok (s.writeResultAndFlag x (aluShr (s.getV x)))) s

/-- SUBN Vx, Vy (R99). -/
def execSubnVxVy (x y : Reg) (s : State) : Host.Outcome State Fault Refusal :=
  runHandler (.subnVxVy x y)
    (fun s => .ok (s.writeResultAndFlag x (aluSub (s.getV y) (s.getV x)))) s

/-- SHL Vx (R100): VX is shifted, the Y field is not used (R60). -/
def execShlVx (x : Reg) (ign : Nibble) (s : State) : Host.Outcome State Fault Refusal :=
  runHandler (.shlVx x ign) (fun s => .ok (s.writeResultAndFlag x (aluShl (s.getV x)))) s

/-- RND Vx, nn (R104): the draw is taken whatever `nn` is (R105). -/
def execRnd (x : Reg) (nn : Byte) (s : State) : Host.Outcome State Fault Refusal :=
  runHandler (.rnd x nn)
    (fun s => .ok (s.takeDraw.setV x ((s.nextDraw &&& nn.setWidth 32).setWidth 8))) s

end Sys2Proof.Machine
end

