-- ==== Sys2Proof/Machine/Control.lean ====
section
/-! DEFINITION. RET, JP, CALL, the register and immediate skips, and JP V0 (spec/41_control.md).
In every handler PC is the fetch address + 2 (spec/30_encoding.md R69). -/

namespace Sys2Proof.Machine

/-- RET (R80): the popped value is not advanced. -/
def execRet (s : State) : Host.Outcome State Fault Refusal :=
  runHandler .ret (fun s =>
    match s.pop with
    | .ok (w, t) => .ok (t.setPc w)
    | .error f => .error f) s

/-- JP nnn (R81). -/
def execJp (nnn : Addr12) (s : State) : Host.Outcome State Fault Refusal :=
  runHandler (.jp nnn) (fun s => .ok (s.setPc (wordOfAddr nnn))) s

/-- CALL nnn (R82): the advanced PC is pushed. -/
def execCall (nnn : Addr12) (s : State) : Host.Outcome State Fault Refusal :=
  runHandler (.call nnn) (fun s =>
    match s.push s.pc with
    | .ok t => .ok (t.setPc (wordOfAddr nnn))
    | .error f => .error f) s

/-- SE Vx, nn (R83). -/
def execSeVxNn (x : Reg) (nn : Byte) (s : State) : Host.Outcome State Fault Refusal :=
  runHandler (.seVxNn x nn) (fun s => .ok (s.skipIf (s.getV x == nn))) s

/-- SNE Vx, nn (R84). -/
def execSneVxNn (x : Reg) (nn : Byte) (s : State) : Host.Outcome State Fault Refusal :=
  runHandler (.sneVxNn x nn) (fun s => .ok (s.skipIf (s.getV x != nn))) s

/-- SE Vx, Vy (R85); the low nibble changes nothing (R60). -/
def execSeVxVy (x y : Reg) (ign : Nibble) (s : State) : Host.Outcome State Fault Refusal :=
  runHandler (.seVxVy x y ign) (fun s => .ok (s.skipIf (s.getV x == s.getV y))) s

/-- SNE Vx, Vy (R86); the low nibble changes nothing (R60). -/
def execSneVxVy (x y : Reg) (ign : Nibble) (s : State) : Host.Outcome State Fault Refusal :=
  runHandler (.sneVxVy x y ign) (fun s => .ok (s.skipIf (s.getV x != s.getV y))) s

/-- JP V0, nnn (R87): the offset register is always V0. -/
def execJpV0 (nnn : Addr12) (s : State) : Host.Outcome State Fault Refusal :=
  runHandler (.jpV0 nnn) (fun s => .ok (s.setPc (offsetTarget nnn (s.getV 0)))) s

end Sys2Proof.Machine
end

