-- ==== Sys2Proof/Machine/Display.lean ====
section
/-! DEFINITION. CLS and DRW (spec/40_display.md). -/

namespace Sys2Proof.Machine

/-- CLS (R73). -/
def execCls (s : State) : Host.Outcome State Fault Refusal :=
  runHandler .cls (fun s => .ok (s.setFb blankFb)) s

/-- The handler of DRW: all `n` row bytes are read before a pixel changes (R77), the coordinates are
the register values before VF is written (R79), VF is the collision bit (R78). -/
def drawHandler (x y : Reg) (n : Nat) (s : State) : Except Fault State :=
  match s.memRead s.i.toNat n with
  | .ok rows =>
    let d := drawSprite s.fb (s.getV x).toNat (s.getV y).toNat rows
    .ok ((s.setFb d.fb).setV Reg.vf (flagByte d.hit))
  | .error f => .error f

/-- DRW Vx, Vy, n (R74). -/
def execDrw (x y : Reg) (n : Nat) (s : State) : Host.Outcome State Fault Refusal :=
  runHandler (.drw x y n) (drawHandler x y n) s

end Sys2Proof.Machine
end

