-- ==== Sys2Proof/Machine/IndexMemory.lean ====
section
/-! DEFINITION. The instructions that set I and the three memory transfers
(spec/43_index_memory.md). -/

namespace Sys2Proof.Machine

/-- LD I, nnn (R106). -/
def execLdINnn (nnn : Addr12) (s : State) : Host.Outcome State Fault Refusal :=
  runHandler (.ldINnn nnn) (fun s => .ok (s.setI (wordOfAddr nnn))) s

/-- ADD I, Vx (R107): modulo 2^16, no flag. -/
def execAddIVx (x : Reg) (s : State) : Host.Outcome State Fault Refusal :=
  runHandler (.addIVx x) (fun s => .ok (s.setI (s.i + (s.getV x).setWidth 16))) s

/-- LD F, Vx (R108). -/
def execLdFVx (x : Reg) (s : State) : Host.Outcome State Fault Refusal :=
  runHandler (.ldFVx x) (fun s => .ok (s.setI (glyphAddr (s.getV x)))) s

/-- LD B, Vx (R109). -/
def execLdBVx (x : Reg) (s : State) : Host.Outcome State Fault Refusal :=
  runHandler (.ldBVx x) (fun s => s.memWrite s.i.toNat (bcdDigits (s.getV x))) s

/-- LD [I], Vx (R110): I is unchanged. -/
def execLdMemVx (x : Reg) (s : State) : Host.Outcome State Fault Refusal :=
  runHandler (.ldMemVx x) (fun s => s.memWrite s.i.toNat (s.dumpV x)) s

/-- LD Vx, [I] (R111): the range is checked before a register is written; I is unchanged. -/
def execLdVxMem (x : Reg) (s : State) : Host.Outcome State Fault Refusal :=
  runHandler (.ldVxMem x) (fun s =>
    match s.memRead s.i.toNat (x.val + 1) with
    | .ok bs => .ok (s.setVs (loadFrom s.v 0 bs))
    | .error f => .error f) s

end Sys2Proof.Machine
end

