-- ==== Sys2Proof/Machine/KeypadTimers.lean ====
section
/-! DEFINITION. The keypad and timer instructions (spec/44_keypad_timers.md). -/

namespace Sys2Proof.Machine

/-- SKP Vx (R112). -/
def execSkp (x : Reg) (s : State) : Host.Outcome State Fault Refusal :=
  runHandler (.skp x) (fun s =>
    match s.keyAt (s.getV x) with
    | .ok pressed => .ok (s.skipIf pressed)
    | .error f => .error f) s

/-- SKNP Vx (R113). -/
def execSknp (x : Reg) (s : State) : Host.Outcome State Fault Refusal :=
  runHandler (.sknp x) (fun s =>
    match s.keyAt (s.getV x) with
    | .ok pressed => .ok (s.skipIf (!pressed))
    | .error f => .error f) s

/-- LD Vx, DT (R114). -/
def execLdVxDt (x : Reg) (s : State) : Host.Outcome State Fault Refusal :=
  runHandler (.ldVxDt x) (fun s => .ok (s.setV x s.dt)) s

/-- LD Vx, K (R115): with no key pressed PC goes back to the instruction itself. -/
def execLdVxK (x : Reg) (s : State) : Host.Outcome State Fault Refusal :=
  runHandler (.ldVxK x) (fun s =>
    match s.lowestKey with
    | some k => .ok (s.setV x (BitVec.ofNat 8 k))
    | none => .ok s.rollBackPc) s

/-- LD DT, Vx (R116). -/
def execLdDtVx (x : Reg) (s : State) : Host.Outcome State Fault Refusal :=
  runHandler (.ldDtVx x) (fun s => .ok (s.setDt (s.getV x))) s

/-- LD ST, Vx (R117). -/
def execLdStVx (x : Reg) (s : State) : Host.Outcome State Fault Refusal :=
  runHandler (.ldStVx x) (fun s => .ok (s.setSt (s.getV x))) s

end Sys2Proof.Machine
end

