-- ==== Sys2Proof/Machine/Step.lean ====
section
/-! DEFINITION. One STEP transaction (spec/30_encoding.md R67), and a word placed where it fetches. -/

namespace Sys2Proof.Machine

/-- A STEP (R67): halted, it changes nothing (R130); else fetch, decode and run one instruction.
A fault of the fetch or of decode is a next state too (R129). -/
def step (s : State) : Host.Outcome State Fault Refusal :=
  if s.fault.halted then .next s
  else
    match s.fetchInstr with
    | .ok i => exec i s
    | .error t => .next t

/-- The state whose next STEP fetches the opcode table's word `w` of `nbits` bits (log entry 8). -/
def State.withFetchWord (s : State) (nbits w : Nat) : State := s.placeWord (tableWord nbits w)

end Sys2Proof.Machine
end

