-- ==== Sys2Proof/Assembly.lean ====
section
/-! DEFINITION. The assembler syntax of spec/30_encoding.md R62, R65 and R66: how an instruction is
spelled, which word a spelling assembles to, and data bytes.  It has no effect on the machine (D16). -/

namespace Sys2Proof

/-! ## Spelling (R65) -/

/-- A hexadecimal digit. -/
def hexDigit (n : Nat) : Char := if n < 10 then Char.ofNat (48 + n) else Char.ofNat (55 + n)

/-- The low `digits` hexadecimal digits of a number. -/
def hexDigits : Nat → Nat → List Char
  | 0, _ => []
  | d + 1, n => hexDigit (n / 16 ^ d % 16) :: hexDigits d n

/-- A number in hexadecimal with its `0x` prefix. -/
def hexText (digits n : Nat) : String := "0x" ++ String.ofList (hexDigits digits n)

/-- `V0`..`VF`. -/
def Reg.text (r : Reg) : String := "V" ++ String.ofList [hexDigit r.val]

/-- Operands separated by a comma. -/
def operands (a b : String) : String := a ++ ", " ++ b

/-- The "syntax" column of R62, with the operands put in. -/
def Instr.text : Instr → String
  | .cls => "CLS"
  | .ret => "RET"
  | .jp nnn => "JP " ++ hexText 3 nnn.toNat
  | .call nnn => "CALL " ++ hexText 3 nnn.toNat
  | .seVxNn x nn => "SE " ++ operands (Reg.text x) (hexText 2 nn.toNat)
  | .sneVxNn x nn => "SNE " ++ operands (Reg.text x) (hexText 2 nn.toNat)
  | .seVxVy x y _ => "SE " ++ operands (Reg.text x) (Reg.text y)
  | .ldVxNn x nn => "LD " ++ operands (Reg.text x) (hexText 2 nn.toNat)
  | .addVxNn x nn => "ADD " ++ operands (Reg.text x) (hexText 2 nn.toNat)
  | .ldVxVy x y => "LD " ++ operands (Reg.text x) (Reg.text y)
  | .orVxVy x y => "OR " ++ operands (Reg.text x) (Reg.text y)
  | .andVxVy x y => "AND " ++ operands (Reg.text x) (Reg.text y)
  | .xorVxVy x y => "XOR " ++ operands (Reg.text x) (Reg.text y)
  | .addVxVy x y => "ADD " ++ operands (Reg.text x) (Reg.text y)
  | .subVxVy x y => "SUB " ++ operands (Reg.text x) (Reg.text y)
  | .shrVx x _ => "SHR " ++ Reg.text x
  | .subnVxVy x y => "SUBN " ++ operands (Reg.text x) (Reg.text y)
  | .shlVx x _ => "SHL " ++ Reg.text x
  | .sneVxVy x y _ => "SNE " ++ operands (Reg.text x) (Reg.text y)
  | .ldINnn nnn => "LD " ++ operands "I" (hexText 3 nnn.toNat)
  | .jpV0 nnn => "JP " ++ operands "V0" (hexText 3 nnn.toNat)
  | .rnd x nn => "RND " ++ operands (Reg.text x) (hexText 2 nn.toNat)
  | .drw x y n => "DRW " ++ operands (Reg.text x) (operands (Reg.text y) (hexText 1 n))
  | .skp x => "SKP " ++ Reg.text x
  | .sknp x => "SKNP " ++ Reg.text x
  | .ldVxDt x => "LD " ++ operands (Reg.text x) "DT"
  | .ldVxK x => "LD " ++ operands (Reg.text x) "K"
  | .ldDtVx x => "LD " ++ operands "DT" (Reg.text x)
  | .ldStVx x => "LD " ++ operands "ST" (Reg.text x)
  | .addIVx x => "ADD " ++ operands "I" (Reg.text x)
  | .ldFVx x => "LD " ++ operands "F" (Reg.text x)
  | .ldBVx x => "LD " ++ operands "B" (Reg.text x)
  | .ldMemVx x => "LD " ++ operands "[I]" (Reg.text x)
  | .ldVxMem x => "LD " ++ operands (Reg.text x) "[I]"

/-! ## Assembling (R65, R66) -/

/-- The instruction that its spelling assembles to: the bits that decode ignores are 0 (R65). -/
def Instr.canonical : Instr → Instr
  | .seVxVy x y _ => .seVxVy x y 0
  | .sneVxVy x y _ => .sneVxVy x y 0
  | .shrVx x _ => .shrVx x 0
  | .shlVx x _ => .shlVx x 0
  | .cls => .cls
  | .ret => .ret
  | .jp nnn => .jp nnn
  | .call nnn => .call nnn
  | .seVxNn x nn => .seVxNn x nn
  | .sneVxNn x nn => .sneVxNn x nn
  | .ldVxNn x nn => .ldVxNn x nn
  | .addVxNn x nn => .addVxNn x nn
  | .ldVxVy x y => .ldVxVy x y
  | .orVxVy x y => .orVxVy x y
  | .andVxVy x y => .andVxVy x y
  | .xorVxVy x y => .xorVxVy x y
  | .addVxVy x y => .addVxVy x y
  | .subVxVy x y => .subVxVy x y
  | .subnVxVy x y => .subnVxVy x y
  | .ldINnn nnn => .ldINnn nnn
  | .jpV0 nnn => .jpV0 nnn
  | .rnd x nn => .rnd x nn
  | .drw x y n => .drw x y n
  | .skp x => .skp x
  | .sknp x => .sknp x
  | .ldVxDt x => .ldVxDt x
  | .ldVxK x => .ldVxK x
  | .ldDtVx x => .ldDtVx x
  | .ldStVx x => .ldStVx x
  | .addIVx x => .addIVx x
  | .ldFVx x => .ldFVx x
  | .ldBVx x => .ldBVx x
  | .ldMemVx x => .ldMemVx x
  | .ldVxMem x => .ldVxMem x

/-- A line of a program: an instruction, or `db` and a raw byte; there is no other (R66). -/
inductive SourceLine where
  | instr (i : Instr)
  | db (b : Byte)
  deriving DecidableEq, Repr

/-- The bytes of a line, an instruction's high byte first (R38). -/
def SourceLine.bytes : SourceLine → List Byte
  | .instr i => [highByte (encode i.canonical), lowByte (encode i.canonical)]
  | .db b => [b]

/-- The program image of its lines (R52). -/
def assemble : List SourceLine → List Byte
  | [] => []
  | l :: ls => l.bytes ++ assemble ls

end Sys2Proof
end

