-- ==== Sys2Proof/Machine/Interface.lean ====
section
/-! DEFINITION. The host's transactions (spec/60_exceptions.md R126 to R138,
spec/70_reset_and_hazards.md R143 to R146): INIT, RESET, STEP, TICK, SET_KEY and READ. -/

namespace Sys2Proof.Machine

/-! ## INIT and RESET -/

/-- The state an accepted INIT leaves (R143): the whole state replaced, memory holding the font and
the program bytes.  The parameters stay, and the random source is not touched (R148). -/
def initState (cfg : Config) (rngIndex : Nat) (p : List Byte) : State :=
  { State.reset with
    mem := memoryOfBytes cfg.font progBase p, rom := p, cfg := cfg, rngIndex := rngIndex }

/-- RESET (R145): INIT from ROM_IMAGE. -/
def State.restart (s : State) : State := initState s.cfg s.rngIndex s.rom

/-! ## TICK and SET_KEY -/

/-- A timer at its next tick: one less unless it is 0 (R133). -/
def tickTimer (t : Byte) : Byte := if t = 0 then t else t - 1

/-- TICK (R133). -/
def State.tick (s : State) : State := (s.setDt (tickTimer s.dt)).setSt (tickTimer s.st)

/-- SET_KEY(k, p) (R135). -/
def State.setKey (s : State) (k : Reg) (pressed : Bool) : State := s.setKeypad k pressed

/-! ## READ -/

/-- The read-only views (R138); memory is not among them. -/
structure Views where
  fb : Framebuffer
  v : Vector Byte 16
  pc : Word
  i : Word
  sp : Byte
  dt : Byte
  st : Byte
  stack : Vector Word 16
  trace : Vector TraceRecord 16
  tpos : Fin 16
  keypad : Vector Bool 16
  fault : FaultRecord
  deriving DecidableEq, Repr

/-- What READ returns (R138). -/
def State.views (s : State) : Views :=
  { fb := s.fb, v := s.v, pc := s.pc, i := s.i, sp := s.sp, dt := s.dt, st := s.st
    stack := s.stack, trace := s.trace, tpos := s.tpos, keypad := s.keypad, fault := s.fault }

/-! ## Transactions -/

/-- A transaction of the host (R126). -/
inductive Transaction where
  | init (p : List Byte)
  | reset
  | step
  | tick
  | setKey (k : Reg) (pressed : Bool)
  | read
  deriving DecidableEq, Repr

/-- What a transaction returns to the host (R126). -/
inductive Reply where
  | ok
  | loadReject
  | fault (c : Cause)
  | views (w : Views)
  deriving DecidableEq, Repr

/-- The block: before its first accepted INIT there is no machine state (R146), only the parameters
and the random source. -/
inductive Device where
  | unloaded (cfg : Config) (rngIndex : Nat)
  | loaded (s : State)
  deriving DecidableEq, Repr

/-- What a STEP returns: FAULT(cause) when the state it leaves is halted, that is when it faulted or
was halted already, else OK (R67, R129, R130). -/
def State.stepReply (s : State) : Reply := if s.fault.halted then .fault s.fault.cause else .ok

/-- INIT(p) on a block (R143, R144): a program too long is rejected and changes nothing. -/
def Device.init (d : Device) (p : List Byte) : Device × Reply :=
  if progMax < p.length then (d, .loadReject)
  else
    match d with
    | .unloaded cfg rngIndex => (.loaded (initState cfg rngIndex p), .ok)
    | .loaded s => (.loaded (initState s.cfg s.rngIndex p), .ok)

/-- A STEP on a loaded block. -/
def State.stepTransaction (s : State) : Host.Outcome (Device × Reply) Fault Refusal :=
  match step s with
  | .next t => .next (.loaded t, t.stepReply)
  | .fault f => .fault f
  | .refused r => .refused r

/-- One transaction (R126), atomic (R127).  Before the first accepted INIT every other transaction is
refused (R128, R146). -/
def transact (d : Device) (t : Transaction) : Host.Outcome (Device × Reply) Fault Refusal :=
  match t, d with
  | .init p, d => .next (d.init p)
  | .reset, .loaded s => .next (.loaded s.restart, .ok)
  | .step, .loaded s => s.stepTransaction
  | .tick, .loaded s => .next (.loaded s.tick, .ok)
  | .setKey k pressed, .loaded s => .next (.loaded (s.setKey k pressed), .ok)
  | .read, .loaded s => .next (.loaded s, .views s.views)
  | .reset, .unloaded _ _ => .refused .beforeFirstInit
  | .step, .unloaded _ _ => .refused .beforeFirstInit
  | .tick, .unloaded _ _ => .refused .beforeFirstInit
  | .setKey _ _, .unloaded _ _ => .refused .beforeFirstInit
  | .read, .unloaded _ _ => .refused .beforeFirstInit

/-- A run: transactions one after the other, in the host's order (R127, R141). -/
def transactAll : Device → List Transaction → Host.Outcome Device Fault Refusal
  | d, [] => .next d
  | d, t :: ts =>
    match transact d t with
    | .next (d', _) => transactAll d' ts
    | .fault f => .fault f
    | .refused r => .refused r

end Sys2Proof.Machine
end

