-- ==== Sys2Proof/Safety.lean ====
section
/-! DEFINITION. The terms in which claims are stated: the invariant of the machine, what a step
leaves alone, the writers tables of the spec, and the idle state of a finished program. -/

namespace Sys2Proof.Machine

/-! ## The invariant -/

/-- SP is 15, 14, ..., 0 or 255 (spec/10_state.md R25). -/
abbrev spLegal (sp : Byte) : Prop := sp.toNat < 16 ∨ sp = 255

/-- The fault record is clear, or says halted with a cause and the detail R118 gives it. -/
def FaultRecord.coherent (r : FaultRecord) : Bool :=
  if r.halted then
    match r.cause with
    | .none => false
    | .unimplemented => r.info == r.op && decide (decode r.op = .error (.unimplemented r.op))
    | .memRange => decide (memSize ≤ r.info.toNat)
    | .stackOverflow => r.info == 255
    | .stackUnderflow => r.info == 15
    | .keyRange => decide (15 < r.info.toNat) && decide (r.info.toNat < 256)
  else r == FaultRecord.clear

/-- What every reachable state satisfies: memory in canonical form below 4096, SP legal (R25), the
fault record as R118 and R129 make it with PC still at the fault's address, ROM_IMAGE short enough
(R144). -/
abbrev State.Inv (s : State) : Prop :=
  Memory.wf s.cfg.font s.mem = true ∧ spLegal s.sp ∧ s.fault.coherent = true
    ∧ (s.fault.halted = true → s.fault.addr = s.pc) ∧ s.rom.length ≤ progMax

/-- The invariant of a block: of its state, once it has one. -/
def Device.Inv : Device → Prop
  | .unloaded _ _ => True
  | .loaded s => s.Inv

/-- A trace record is the zero record, or its word decodes to an instruction of its mnemonic
(R31, R72). -/
def TraceRecord.coherent (r : TraceRecord) : Bool :=
  r == TraceRecord.zero ||
    match decode r.op with
    | .ok i => i.mnemonic == r.mn
    | .error _ => false

/-- Every record of the trace is coherent. -/
abbrev State.TraceInv (s : State) : Prop := ∀ k : Fin 16, s.trace[k].coherent = true

/-- The parameters and the count of draws that a block holds. -/
def Device.holds : Device → Config → Nat → Prop
  | .unloaded cfg n, cfg', n' => cfg = cfg' ∧ n = n'
  | .loaded s, cfg', n' => s.cfg = cfg' ∧ s.rngIndex = n'

/-! ## Frames -/

/-- A piece of state, one register or one byte of memory at a time. -/
inductive Part where
  | reg (r : Reg)
  | index
  | pc
  | sp
  | slot (k : Fin 16)
  | dt
  | st
  | pixel (y x : Nat)
  | keypad
  | byte (a : Nat)
  | trace
  | fault
  | rom
  | params
  | draws
  deriving DecidableEq, Repr

/-- `t` is as `s` in every part that `may` does not hold of. -/
structure State.SameBut (s t : State) (may : Part → Prop) : Prop where
  regs : ∀ r, ¬ may (.reg r) → t.getV r = s.getV r
  index : ¬ may .index → t.i = s.i
  pc : ¬ may .pc → t.pc = s.pc
  sp : ¬ may .sp → t.sp = s.sp
  slots : ∀ k : Fin 16, ¬ may (.slot k) → t.stack[k] = s.stack[k]
  dt : ¬ may .dt → t.dt = s.dt
  st : ¬ may .st → t.st = s.st
  pixels : ∀ y x, ¬ may (.pixel y x) → pixelAt t.fb y x = pixelAt s.fb y x
  keypad : ¬ may .keypad → t.keypad = s.keypad
  bytes : ∀ a, ¬ may (.byte a) → t.readByte a = s.readByte a
  trace : ¬ may .trace → t.trace = s.trace ∧ t.tpos = s.tpos
  fault : ¬ may .fault → t.fault = s.fault
  rom : ¬ may .rom → t.rom = s.rom
  params : ¬ may .params → t.cfg = s.cfg
  draws : ¬ may .draws → t.rngIndex = s.rngIndex

/-- `t`'s trace is `s`'s with the record of `i`, fetched at `s`'s PC, appended (R71). -/
def State.Traced (s t : State) (i : Instr) : Prop :=
  t.trace = s.trace.set s.tpos { addr := s.pc, op := encode i, mn := i.mnemonic }
    ∧ t.tpos = s.tpos + 1

/-- `t` is `s` with a fault recorded and nothing else changed (R129). -/
def State.Faulted (s t : State) (cause : Cause) (op info : Word) : Prop :=
  t = { s with fault := { halted := true, cause := cause, addr := s.pc, op := op, info := info } }

/-! ## The writers tables -/

end Sys2Proof.Machine

namespace Sys2Proof

/-- The general registers an instruction may write (R17): VX, VF as a flag, or V0..VX. -/
def Instr.writesReg : Instr → Reg → Prop
  | .ldVxNn x _, r | .addVxNn x _, r | .ldVxVy x _, r | .orVxVy x _, r | .andVxVy x _, r
  | .xorVxVy x _, r | .rnd x _, r | .ldVxDt x, r | .ldVxK x, r => r = x
  | .addVxVy x _, r | .subVxVy x _, r | .shrVx x _, r | .subnVxVy x _, r | .shlVx x _, r =>
    r = x ∨ r = Reg.vf
  | .drw _ _ _, r => r = Reg.vf
  | .ldVxMem x, r => r ≤ x
  | .cls, _ | .ret, _ | .jp _, _ | .call _, _ | .seVxNn _ _, _ | .sneVxNn _ _, _
  | .seVxVy _ _ _, _ | .sneVxVy _ _ _, _ | .ldINnn _, _ | .jpV0 _, _ | .skp _, _ | .sknp _, _
  | .ldDtVx _, _ | .ldStVx _, _ | .addIVx _, _ | .ldFVx _, _ | .ldBVx _, _ | .ldMemVx _, _ => False

/-- How many bytes an instruction stores, from the address in I on (R40). -/
def Instr.storedBytes : Instr → Nat
  | .ldBVx _ => 3
  | .ldMemVx x => x.val + 1
  | .cls | .ret | .jp _ | .call _ | .seVxNn _ _ | .sneVxNn _ _ | .seVxVy _ _ _ | .ldVxNn _ _
  | .addVxNn _ _ | .ldVxVy _ _ | .orVxVy _ _ | .andVxVy _ _ | .xorVxVy _ _ | .addVxVy _ _
  | .subVxVy _ _ | .shrVx _ _ | .subnVxVy _ _ | .shlVx _ _ | .sneVxVy _ _ _ | .ldINnn _
  | .jpV0 _ | .rnd _ _ | .drw _ _ _ | .skp _ | .sknp _ | .ldVxDt _ | .ldVxK _ | .ldDtVx _
  | .ldStVx _ | .addIVx _ | .ldFVx _ | .ldVxMem _ => 0

/-- The one kind of fault an instruction's own check can raise, `none` for no check (R125). -/
def Instr.ownCheck : Instr → Machine.Cause
  | .drw _ _ _ | .ldBVx _ | .ldMemVx _ | .ldVxMem _ => .memRange
  | .call _ => .stackOverflow
  | .ret => .stackUnderflow
  | .skp _ | .sknp _ => .keyRange
  | .cls | .jp _ | .seVxNn _ _ | .sneVxNn _ _ | .seVxVy _ _ _ | .ldVxNn _ _ | .addVxNn _ _
  | .ldVxVy _ _ | .orVxVy _ _ | .andVxVy _ _ | .xorVxVy _ _ | .addVxVy _ _ | .subVxVy _ _
  | .shrVx _ _ | .subnVxVy _ _ | .shlVx _ _ | .sneVxVy _ _ _ | .ldINnn _ | .jpV0 _ | .rnd _ _
  | .ldVxDt _ | .ldVxK _ | .ldDtVx _ | .ldStVx _ | .addIVx _ | .ldFVx _ => .none

/-- VX of the five instructions that write a result and a flag (R101). -/
def Instr.flagAluDest : Instr → Option Reg
  | .addVxVy x _ | .subVxVy x _ | .shrVx x _ | .subnVxVy x _ | .shlVx x _ => some x
  | .cls | .ret | .jp _ | .call _ | .seVxNn _ _ | .sneVxNn _ _ | .seVxVy _ _ _ | .ldVxNn _ _
  | .addVxNn _ _ | .ldVxVy _ _ | .orVxVy _ _ | .andVxVy _ _ | .xorVxVy _ _ | .sneVxVy _ _ _
  | .ldINnn _ | .jpV0 _ | .rnd _ _ | .drw _ _ _ | .skp _ | .sknp _ | .ldVxDt _ | .ldVxK _
  | .ldDtVx _ | .ldStVx _ | .addIVx _ | .ldFVx _ | .ldBVx _ | .ldMemVx _ | .ldVxMem _ => none

end Sys2Proof

namespace Sys2Proof.Machine

/-! ## States compared -/

/-- The same state under another `VF_ORDER` (R101). -/
def State.withVfOrder (s : State) (o : VfOrder) : State := { s with cfg := { s.cfg with vfOrder := o } }

/-- A state with what no instruction reads taken out: the trace and its position (R30), ST (R27) and
ROM_IMAGE (R35).  Two states with the same `withoutUnread` differ only there. -/
def State.withoutUnread (s : State) : State :=
  { s with trace := Vector.replicate 16 TraceRecord.zero, tpos := 0, st := 0, rom := [] }

/-! ## Results and flags -/

/-- What R101 makes of a result and a flag computed from the old registers: both for X ≠ F, and for
X = F the one that `VF_ORDER` writes last. -/
def ResultAndFlag (s t : State) (x : Reg) (result : Nat) (flag : Prop) : Prop :=
  (x ≠ Reg.vf → (t.getV x).toNat = result) ∧
  (x ≠ Reg.vf ∨ s.cfg.vfOrder = .flagLast →
    (flag → t.getV Reg.vf = 0x01) ∧ (¬ flag → t.getV Reg.vf = 0x00)) ∧
  (x = Reg.vf → s.cfg.vfOrder = .resultLast → (t.getV Reg.vf).toNat = result)

/-! ## Sprites -/

/-- The N row bytes of a sprite, at I, I + 1, ... (R74). -/
def spriteRows (s : State) (n : Nat) : List Byte :=
  (List.range n).map fun k => s.readByte (s.i.toNat + k)

/-- The source bit of a sprite that falls on column `x`, row `y` when the sprite stands at column
`x0`, row `y0` (spec/40_display.md R74, R75): bit 7 of a row byte at `x0`, bit 0 at `x0 + 7`. -/
def spriteBit (x0 y0 : Nat) (rows : List Byte) (y x : Nat) : Bool :=
  decide (x0 ≤ x) && decide (x < x0 + 8) && decide (y0 ≤ y)
    && (rows.getD (y - y0) 0x00).getLsbD (7 - (x - x0))

/-- Column `x`, row `y` is a pixel of the framebuffer (R76). -/
abbrev onScreen (y x : Nat) : Prop := x < 64 ∧ y < 32

/-! ## End of a run -/

/-- The idle state of a finished program: PC is at a JP to its own address (R141). -/
def State.idle (s : State) : Bool :=
  decide (s.pc.toNat ≤ 0xFFE) &&
    (wordOfBytes (s.readByte s.pc.toNat) (s.readByte (s.pc.toNat + 1)) == 0x1000 + s.pc)

/-- A state that is no bad end: the engine is not halted (R141). -/
def State.safe (s : State) : Prop := s.fault.halted = false

end Sys2Proof.Machine
end

