-- ==== Sys2Proof/Certificates/Slice0/Obligations.lean ====
section
/-! DEFINITION. The statements for the provers, each from numbered rules of spec/. -/

open Sys2Proof Sys2Proof.Machine

/-! ## Encoding (spec/30_encoding.md) -/

/-- R54, R61, R62: decoding the word of a well-formed instruction gives it back, with every operand.
The places of X and Y and most opcode values are the spec's choice (D15, log entry 4). -/
def Obligations.DecodeOfEncodeIsTheInstruction : Prop :=
  ∀ i : Instr, i.wellFormed = true → decode (encode i) = .ok i

/-- R54, R62: a word that decodes has one meaning, and encoding that gives the word back, the ignored
bits of R60 among it (D15, log entry 4). -/
def Obligations.EncodeOfDecodeIsTheWord : Prop :=
  ∀ (w : Word) (i : Instr), decode w = .ok i → i.wellFormed = true ∧ encode i = w

/-- R62: there are 34 rows, a word decodes to an instruction of a row exactly when the row's fixed
bits fit it, and every word that decodes is of one of them (D15, log entry 4). -/
def Obligations.WordsDecodeExactlyByTheOpcodeMap : Prop :=
  opcodeRows.length = 34 ∧
  (∀ (w : Word) (m : Mnemonic), m ∈ opcodeRows →
    (m.fits w = true ↔ ∃ i, decode w = .ok i ∧ i.mnemonic = m)) ∧
  (∀ (w : Word) (i : Instr), decode w = .ok i → i.mnemonic ∈ opcodeRows)

/-- R61: the unimplemented words are exactly those of the list: family 0 but 00E0 and 00EE, family 8
with the low nibble 8..D or F, families E and F with a low byte not in their lists (D15, log entry 4). -/
def Obligations.UnimplementedWordsAreExactlyTheListed : Prop :=
  ∀ w : Word, decode w = .error (.unimplemented w) ↔
    (w.toNat / 4096 = 0x0 ∧ w ≠ 0x00E0 ∧ w ≠ 0x00EE) ∨
    (w.toNat / 4096 = 0x8 ∧ w.toNat % 16 ∈ [0x8, 0x9, 0xA, 0xB, 0xC, 0xD, 0xF]) ∨
    (w.toNat / 4096 = 0xE ∧ w.toNat % 256 ∉ [0x9E, 0xA1]) ∨
    (w.toNat / 4096 = 0xF ∧
      w.toNat % 256 ∉ [0x07, 0x0A, 0x15, 0x18, 0x1E, 0x29, 0x33, 0x55, 0x65])

/-- Words written out from the encodings of R62, one of each family, decode to their instructions
(D15, log entry 4). -/
def Obligations.SampleWordsDecode : Prop :=
  decode 0x00EE = .ok .ret ∧ decode 0x2210 = .ok (.call 0x210) ∧
  decode 0x6A7B = .ok (.ldVxNn 0xA 0x7B) ∧ decode 0x8217 = .ok (.subnVxVy 2 1) ∧
  decode 0xA250 = .ok (.ldINnn 0x250) ∧ decode 0xDF01 = .ok (.drw 0xF 0 1) ∧
  decode 0xE19E = .ok (.skp 1) ∧ decode 0xF533 = .ok (.ldBVx 5)

/-! ## The STEP (R67, R68, R119, R130) -/

/-- R67: at a state that is not halted, when the two bytes at PC, high byte first, decode to an
instruction, the step is that instruction's `exec` at that very state (which itself advances PC and
appends the trace record). -/
def Obligations.StepRunsTheDecodedInstruction : Prop :=
  ∀ (s : State) (i : Instr), s.fault.halted = false → s.pc.toNat + 1 < memSize →
    decode (wordOfBytes (s.readByte s.pc.toNat) (s.readByte (s.pc.toNat + 1))) = .ok i →
    i.wellFormed = true ∧ step s = exec i s

/-- R68, R41, R129: a fetch with PC or PC + 1 at 4096 or above faults MEM_RANGE with the lowest such
address and op 0, and nothing else changes (decision D2 of the spec, log entry 14). -/
def Obligations.FetchOutOfRangeFaults : Prop :=
  ∀ s : State, s.fault.halted = false → memSize ≤ s.pc.toNat + 1 →
    ∃ t, step s = .next t ∧
      s.Faulted t .memRange 0x0000 (BitVec.ofNat 16 (max s.pc.toNat memSize))

/-- R119: a word that decodes to no instruction faults UNIMPLEMENTED, after the fetch: no handler runs,
no trace record is made, and the host is given the fault.  That nothing else changes, and the op and
info that are recorded, are R129 and R118, decisions D4 and D23 of the spec (log entry 14). -/
def Obligations.UnimplementedWordFaults : Prop :=
  ∀ (s : State) (w : Word), s.fault.halted = false → s.pc.toNat + 1 < memSize →
    wordOfBytes (s.readByte s.pc.toNat) (s.readByte (s.pc.toNat + 1)) = w →
    decode w = .error (.unimplemented w) →
    ∃ t, step s = .next t ∧ s.Faulted t .unimplemented w w ∧
      transact (.loaded s) .step = .next (.loaded t, .fault .unimplemented)

/-- A STEP always answers a next state: a fault is recorded in it (R129) and a halted engine stays as
it is (R130). -/
def Obligations.EveryStepAnswersANextState : Prop :=
  ∀ s : State, ∃ t, step s = .next t

/-- R71, R125, R129: every instruction, in every state, either completes, with its trace record
appended and the fault record, the keypad, ROM_IMAGE and the parameters untouched, or raises the one
kind of fault its own check has, and then nothing but the fault record differs from the state at the
start of the STEP. -/
def Obligations.EveryInstructionCompletesOrFaultsPrecisely : Prop :=
  ∀ (i : Instr) (s : State), ∃ t, exec i s = .next t ∧
    ((s.Traced t i ∧ t.fault = s.fault ∧ t.keypad = s.keypad ∧ t.rom = s.rom ∧ t.cfg = s.cfg) ∨
      (i.ownCheck ≠ .none ∧ ∃ info, s.Faulted t i.ownCheck (encode i) info))

/-! ## Register file and ALU (spec/42_alu.md) -/

/-- R90: LD Vx, nn, encoded 6XNN; VF changes only as VX.  That X is w[11:8] is the spec's choice from
general knowledge (R54, D15; PRESUMED, log entry 4). -/
def Obligations.LoadImmediateWritesVx : Prop :=
  ∀ (x : Reg) (nn : Byte) (s : State),
    decode (BitVec.ofNat 16 (0x6000 + 256 * x.val + nn.toNat)) = .ok (.ldVxNn x nn) ∧
    ∃ t, exec (.ldVxNn x nn) s = .next t ∧ t.getV x = nn ∧ t.pc = s.pc + 2 ∧
      s.Traced t (.ldVxNn x nn) ∧ s.SameBut t (fun p => p = .reg x ∨ p = .pc ∨ p = .trace)

/-- R91: ADD Vx, nn; the sum wraps and no flag is set, so VF changes only as VX. -/
def Obligations.AddImmediateWrapsWithoutFlag : Prop :=
  ∀ (x : Reg) (nn : Byte) (s : State), ∃ t, exec (.addVxNn x nn) s = .next t ∧
    (t.getV x).toNat = ((s.getV x).toNat + nn.toNat) % 256 ∧ t.pc = s.pc + 2 ∧
    s.Traced t (.addVxNn x nn) ∧ s.SameBut t (fun p => p = .reg x ∨ p = .pc ∨ p = .trace)

/-- R92 to R95: the register move and the three bitwise operations, bit by bit; no flag is set. -/
def Obligations.RegisterMoveAndLogic : Prop :=
  ∀ (x y : Reg) (s : State),
    (∃ t, exec (.ldVxVy x y) s = .next t ∧ t.getV x = s.getV y ∧ t.pc = s.pc + 2 ∧
      s.Traced t (.ldVxVy x y) ∧ s.SameBut t (fun p => p = .reg x ∨ p = .pc ∨ p = .trace)) ∧
    (∃ t, exec (.orVxVy x y) s = .next t ∧
      (∀ k, (t.getV x).getLsbD k = ((s.getV x).getLsbD k || (s.getV y).getLsbD k)) ∧
      t.pc = s.pc + 2 ∧ s.Traced t (.orVxVy x y) ∧
      s.SameBut t (fun p => p = .reg x ∨ p = .pc ∨ p = .trace)) ∧
    (∃ t, exec (.andVxVy x y) s = .next t ∧
      (∀ k, (t.getV x).getLsbD k = ((s.getV x).getLsbD k && (s.getV y).getLsbD k)) ∧
      t.pc = s.pc + 2 ∧ s.Traced t (.andVxVy x y) ∧
      s.SameBut t (fun p => p = .reg x ∨ p = .pc ∨ p = .trace)) ∧
    (∃ t, exec (.xorVxVy x y) s = .next t ∧
      (∀ k, (t.getV x).getLsbD k = ((s.getV x).getLsbD k ^^ (s.getV y).getLsbD k)) ∧
      t.pc = s.pc + 2 ∧ s.Traced t (.xorVxVy x y) ∧
      s.SameBut t (fun p => p = .reg x ∨ p = .pc ∨ p = .trace))

/-- R96, R101: ADD Vx, Vy writes the sum modulo 256, and VF is 1 exactly when the sum exceeds 255.  With
X = F the parameter VF_ORDER decides (R101, log entry 2). -/
def Obligations.AddRegistersWithCarry : Prop :=
  ∀ (x y : Reg) (s : State), ∃ t, exec (.addVxVy x y) s = .next t ∧
    ResultAndFlag s t x (((s.getV x).toNat + (s.getV y).toNat) % 256)
      ((s.getV x).toNat + (s.getV y).toNat > 255) ∧
    t.pc = s.pc + 2 ∧ s.Traced t (.addVxVy x y) ∧
    s.SameBut t (fun p => p = .reg x ∨ p = .reg Reg.vf ∨ p = .pc ∨ p = .trace)

/-- R97, R99, R101: SUB and SUBN write the difference modulo 256, and VF is 1 exactly when there is no
borrow.  With X = F the parameter VF_ORDER decides (R101, log entry 2). -/
def Obligations.SubtractRegistersWithNotBorrow : Prop :=
  ∀ (x y : Reg) (s : State),
    (∃ t, exec (.subVxVy x y) s = .next t ∧
      ResultAndFlag s t x (((s.getV x).toNat + 256 - (s.getV y).toNat) % 256)
        ((s.getV x).toNat ≥ (s.getV y).toNat) ∧
      t.pc = s.pc + 2 ∧ s.Traced t (.subVxVy x y) ∧
      s.SameBut t (fun p => p = .reg x ∨ p = .reg Reg.vf ∨ p = .pc ∨ p = .trace)) ∧
    (∃ t, exec (.subnVxVy x y) s = .next t ∧
      ResultAndFlag s t x (((s.getV y).toNat + 256 - (s.getV x).toNat) % 256)
        ((s.getV y).toNat ≥ (s.getV x).toNat) ∧
      t.pc = s.pc + 2 ∧ s.Traced t (.subnVxVy x y) ∧
      s.SameBut t (fun p => p = .reg x ∨ p = .reg Reg.vf ∨ p = .pc ∨ p = .trace))

/-- R98, R100, R101: SHR and SHL shift VX (not VY) by one, and VF is the bit shifted out; the Y field
changes nothing but the recorded word.  With X = F the parameter VF_ORDER decides (log entry 2). -/
def Obligations.ShiftRegisterByOne : Prop :=
  ∀ (x : Reg) (ign : Nibble) (s : State),
    (∃ t, exec (.shrVx x ign) s = .next t ∧
      ResultAndFlag s t x ((s.getV x).toNat / 2) ((s.getV x).toNat % 2 = 1) ∧
      t.pc = s.pc + 2 ∧ s.Traced t (.shrVx x ign) ∧
      s.SameBut t (fun p => p = .reg x ∨ p = .reg Reg.vf ∨ p = .pc ∨ p = .trace)) ∧
    (∃ t, exec (.shlVx x ign) s = .next t ∧
      ResultAndFlag s t x ((s.getV x).toNat * 2 % 256) ((s.getV x).toNat ≥ 128) ∧
      t.pc = s.pc + 2 ∧ s.Traced t (.shlVx x ign) ∧
      s.SameBut t (fun p => p = .reg x ∨ p = .reg Reg.vf ∨ p = .pc ∨ p = .trace))

/-- R101: `VF_ORDER` (log entry 2) makes no difference to any instruction but a flag-setting ALU
instruction with X = F. -/
def Obligations.VfOrderMattersOnlyForVfDestination : Prop :=
  ∀ (i : Instr) (s t : State) (o : VfOrder), i.flagAluDest ≠ some Reg.vf →
    exec i s = .next t → exec i (s.withVfOrder o) = .next (t.withVfOrder o)

/-- R104, R105: RND takes exactly one draw, whatever it is, and writes its low 8 bits masked by NN; so
bits of VX where NN is 0 are 0.  The draw is a free value, counted by the model's own field (log
entry 3). -/
def Obligations.RandomWritesTheMaskedDraw : Prop :=
  ∀ (x : Reg) (nn : Byte) (s : State), ∃ t, exec (.rnd x nn) s = .next t ∧
    (∀ k, k < 8 → (t.getV x).getLsbD k = ((Config.draw s.rngIndex).getLsbD k && nn.getLsbD k)) ∧
    t.rngIndex = s.rngIndex + 1 ∧ t.pc = s.pc + 2 ∧ s.Traced t (.rnd x nn) ∧
    s.SameBut t (fun p => p = .reg x ∨ p = .pc ∨ p = .trace ∨ p = .draws)

/-! ## Control transfer (spec/41_control.md) -/

/-- R81, R87: JP goes to NNN and JP V0 to NNN + V0, exactly. -/
def Obligations.JumpsSetPc : Prop :=
  ∀ (nnn : Addr12) (s : State),
    (∃ t, exec (.jp nnn) s = .next t ∧ t.pc.toNat = nnn.toNat ∧ s.Traced t (.jp nnn) ∧
      s.SameBut t (fun p => p = .pc ∨ p = .trace)) ∧
    (∃ t, exec (.jpV0 nnn) s = .next t ∧ t.pc.toNat = nnn.toNat + (s.getV 0).toNat ∧
      s.Traced t (.jpV0 nnn) ∧ s.SameBut t (fun p => p = .pc ∨ p = .trace))

/-- R82: CALL with SP ≤ 15 pushes the advanced PC into slot SP, takes one from SP modulo 256 and
goes to NNN; with SP > 15 it faults STACK_OVERFLOW with SP (decision D3 of the spec, log entry 14). -/
def Obligations.CallPushesTheAdvancedPc : Prop :=
  ∀ (nnn : Addr12) (s : State),
    (∀ k : Fin 16, s.sp.toNat = k.val →
      ∃ t, exec (.call nnn) s = .next t ∧ t.stack[k] = s.pc + 2 ∧ t.sp = s.sp - 1 ∧
        t.pc.toNat = nnn.toNat ∧ s.Traced t (.call nnn) ∧
        s.SameBut t (fun p => p = .slot k ∨ p = .sp ∨ p = .pc ∨ p = .trace)) ∧
    (s.sp.toNat > 15 →
      ∃ t, exec (.call nnn) s = .next t ∧
        s.Faulted t .stackOverflow (encode (.call nnn)) (s.sp.setWidth 16))

/-- R80: RET, encoded 00EE, with SP + 1 (in 8 bits) ≤ 15 takes PC from that slot, which keeps its
content, and leaves SP there; else it faults STACK_UNDERFLOW with SP and changes nothing else.  The
range check (R24) and the fault are the spec's choice (D3, and D4 for R129; log entry 14). -/
def Obligations.ReturnPopsPc : Prop :=
  ∀ s : State, decode 0x00EE = .ok .ret ∧
    (∀ k : Fin 16, (s.sp + 1).toNat = k.val →
      ∃ t, exec .ret s = .next t ∧ t.pc = s.stack[k] ∧ t.sp = s.sp + 1 ∧ s.Traced t .ret ∧
        s.SameBut t (fun p => p = .sp ∨ p = .pc ∨ p = .trace)) ∧
    ((s.sp + 1).toNat > 15 →
      ∃ t, exec .ret s = .next t ∧
        s.Faulted t .stackUnderflow 0x00EE (s.sp.setWidth 16))

/-- R80, R82: a RET right after a CALL comes back to the instruction after the call, with SP as it
was and every other slot untouched, whatever was called. -/
def Obligations.CallThenReturnComesBack : Prop :=
  ∀ (nnn : Addr12) (s : State), s.sp.toNat < 16 →
    ∃ t u, exec (.call nnn) s = .next t ∧ exec .ret t = .next u ∧
      u.pc = s.pc + 2 ∧ u.sp = s.sp ∧
      (∀ k : Fin 16, k.val ≠ s.sp.toNat → u.stack[k] = s.stack[k])

/-- R83, R84, R88: the immediate skips add 2 to the advanced PC if the condition holds, and change
nothing else. -/
def Obligations.ImmediateSkips : Prop :=
  ∀ (x : Reg) (nn : Byte) (s : State),
    (∃ t, exec (.seVxNn x nn) s = .next t ∧
      t.pc = (if s.getV x = nn then s.pc + 4 else s.pc + 2) ∧ s.Traced t (.seVxNn x nn) ∧
      s.SameBut t (fun p => p = .pc ∨ p = .trace)) ∧
    (∃ t, exec (.sneVxNn x nn) s = .next t ∧
      t.pc = (if s.getV x ≠ nn then s.pc + 4 else s.pc + 2) ∧ s.Traced t (.sneVxNn x nn) ∧
      s.SameBut t (fun p => p = .pc ∨ p = .trace))

/-- R85, R86, R60, R88: the register skips, whatever the ignored low nibble is. -/
def Obligations.RegisterSkips : Prop :=
  ∀ (x y : Reg) (ign : Nibble) (s : State),
    (∃ t, exec (.seVxVy x y ign) s = .next t ∧
      t.pc = (if s.getV x = s.getV y then s.pc + 4 else s.pc + 2) ∧
      s.Traced t (.seVxVy x y ign) ∧ s.SameBut t (fun p => p = .pc ∨ p = .trace)) ∧
    (∃ t, exec (.sneVxVy x y ign) s = .next t ∧
      t.pc = (if s.getV x ≠ s.getV y then s.pc + 4 else s.pc + 2) ∧
      s.Traced t (.sneVxVy x y ign) ∧ s.SameBut t (fun p => p = .pc ∨ p = .trace))

/-! ## Keypad and timers (spec/44_keypad_timers.md) -/

/-- R112, R113: SKP, encoded EX9E, skips if key VX is pressed, and SKNP, encoded EXA1, if it is not;
with VX above 15 both fault KEY_RANGE with VX, the spec's choice (D10, log entry 14).  That X is
w[11:8] is its choice from general knowledge (R54, D15; PRESUMED, log entry 4). -/
def Obligations.KeySkips : Prop :=
  ∀ (x : Reg) (s : State),
    decode (BitVec.ofNat 16 (0xE09E + 256 * x.val)) = .ok (.skp x) ∧
    decode (BitVec.ofNat 16 (0xE0A1 + 256 * x.val)) = .ok (.sknp x) ∧
    (∀ k : Reg, (s.getV x).toNat = k.val →
      (∃ t, exec (.skp x) s = .next t ∧
        t.pc = (if s.keypad[k] = true then s.pc + 4 else s.pc + 2) ∧ s.Traced t (.skp x) ∧
        s.SameBut t (fun p => p = .pc ∨ p = .trace)) ∧
      (∃ t, exec (.sknp x) s = .next t ∧
        t.pc = (if s.keypad[k] = false then s.pc + 4 else s.pc + 2) ∧ s.Traced t (.sknp x) ∧
        s.SameBut t (fun p => p = .pc ∨ p = .trace))) ∧
    ((s.getV x).toNat > 15 →
      (∃ t, exec (.skp x) s = .next t ∧
        s.Faulted t .keyRange (encode (.skp x)) ((s.getV x).setWidth 16)) ∧
      (∃ t, exec (.sknp x) s = .next t ∧
        s.Faulted t .keyRange (encode (.sknp x)) ((s.getV x).setWidth 16)))

/-- R115: FX0A with no key pressed leaves PC at its own word and VX as it was; with a key pressed it
writes the lowest pressed key's index and goes on (a key already held satisfies it: the spec's own
inference in R115). -/
def Obligations.KeyWaitSpinsOrTakesTheLowestKey : Prop :=
  ∀ (x : Reg) (s : State),
    ((∀ k : Reg, s.keypad[k] = false) →
      ∃ t, exec (.ldVxK x) s = .next t ∧ t.pc = s.pc ∧ s.Traced t (.ldVxK x) ∧
        s.SameBut t (fun p => p = .trace)) ∧
    (∀ k : Reg, s.keypad[k] = true → (∀ j : Reg, j < k → s.keypad[j] = false) →
      ∃ t, exec (.ldVxK x) s = .next t ∧ (t.getV x).toNat = k.val ∧ t.pc = s.pc + 2 ∧
        s.Traced t (.ldVxK x) ∧ s.SameBut t (fun p => p = .reg x ∨ p = .pc ∨ p = .trace))

/-- R114, R116, R117: the timer instructions copy between VX and the timers; DT is not changed by the
read. -/
def Obligations.TimerInstructions : Prop :=
  ∀ (x : Reg) (s : State),
    (∃ t, exec (.ldVxDt x) s = .next t ∧ t.getV x = s.dt ∧ t.pc = s.pc + 2 ∧
      s.Traced t (.ldVxDt x) ∧ s.SameBut t (fun p => p = .reg x ∨ p = .pc ∨ p = .trace)) ∧
    (∃ t, exec (.ldDtVx x) s = .next t ∧ t.dt = s.getV x ∧ t.pc = s.pc + 2 ∧
      s.Traced t (.ldDtVx x) ∧ s.SameBut t (fun p => p = .dt ∨ p = .pc ∨ p = .trace)) ∧
    (∃ t, exec (.ldStVx x) s = .next t ∧ t.st = s.getV x ∧ t.pc = s.pc + 2 ∧
      s.Traced t (.ldStVx x) ∧ s.SameBut t (fun p => p = .st ∨ p = .pc ∨ p = .trace))

/-! ## Index register and memory (spec/43_index_memory.md) -/

/-- R106: LD I, nnn, encoded ANNN, sets I to NNN. -/
def Obligations.LoadIndexSetsI : Prop :=
  ∀ (nnn : Addr12) (s : State),
    decode (BitVec.ofNat 16 (0xA000 + nnn.toNat)) = .ok (.ldINnn nnn) ∧
    ∃ t, exec (.ldINnn nnn) s = .next t ∧ t.i.toNat = nnn.toNat ∧ t.pc = s.pc + 2 ∧
      s.Traced t (.ldINnn nnn) ∧ s.SameBut t (fun p => p = .index ∨ p = .pc ∨ p = .trace)

/-- R107, R108: ADD I adds modulo 2^16 with no flag; LD F gives 0x100 + 5 * VX, with VX not masked (the
spec's own inference from the formula of R108). -/
def Obligations.AddToIndexAndGlyphAddress : Prop :=
  ∀ (x : Reg) (s : State),
    (∃ t, exec (.addIVx x) s = .next t ∧
      t.i.toNat = (s.i.toNat + (s.getV x).toNat) % 65536 ∧ t.pc = s.pc + 2 ∧
      s.Traced t (.addIVx x) ∧ s.SameBut t (fun p => p = .index ∨ p = .pc ∨ p = .trace)) ∧
    (∃ t, exec (.ldFVx x) s = .next t ∧ t.i.toNat = 0x100 + 5 * (s.getV x).toNat ∧
      t.pc = s.pc + 2 ∧ s.Traced t (.ldFVx x) ∧
      s.SameBut t (fun p => p = .index ∨ p = .pc ∨ p = .trace))

/-- R109: LD B writes the hundreds, tens and ones digits of VX to I, I + 1, I + 2; every other byte
and I stay. -/
def Obligations.BcdStoresThreeDigits : Prop :=
  ∀ (x : Reg) (s : State), s.i.toNat + 2 < memSize →
    ∃ t, exec (.ldBVx x) s = .next t ∧
      (t.readByte s.i.toNat).toNat = (s.getV x).toNat / 100 ∧
      (t.readByte (s.i.toNat + 1)).toNat = (s.getV x).toNat / 10 % 10 ∧
      (t.readByte (s.i.toNat + 2)).toNat = (s.getV x).toNat % 10 ∧
      t.pc = s.pc + 2 ∧ s.Traced t (.ldBVx x) ∧
      s.SameBut t (fun p => p = .byte s.i.toNat ∨ p = .byte (s.i.toNat + 1) ∨
        p = .byte (s.i.toNat + 2) ∨ p = .pc ∨ p = .trace)

/-- R110: LD [I], Vx copies V0..VX to I, ..., I + X; every other byte and I stay. -/
def Obligations.RegisterDumpStoresV0ToVx : Prop :=
  ∀ (x : Reg) (s : State), s.i.toNat + x.val < memSize →
    ∃ t, exec (.ldMemVx x) s = .next t ∧
      (∀ k : Reg, k ≤ x → t.readByte (s.i.toNat + k.val) = s.getV k) ∧
      t.pc = s.pc + 2 ∧ s.Traced t (.ldMemVx x) ∧
      s.SameBut t (fun p => (∃ k : Reg, k ≤ x ∧ p = .byte (s.i.toNat + k.val)) ∨
        p = .pc ∨ p = .trace)

/-- R111: LD Vx, [I] copies the bytes at I, ..., I + X to V0..VX; the registers above and I stay. -/
def Obligations.RegisterLoadFillsV0ToVx : Prop :=
  ∀ (x : Reg) (s : State), s.i.toNat + x.val < memSize →
    ∃ t, exec (.ldVxMem x) s = .next t ∧
      (∀ k : Reg, k ≤ x → t.getV k = s.readByte (s.i.toNat + k.val)) ∧
      t.pc = s.pc + 2 ∧ s.Traced t (.ldVxMem x) ∧
      s.SameBut t (fun p => (∃ k : Reg, k ≤ x ∧ p = .reg k) ∨ p = .pc ∨ p = .trace)

/-- R41, R120, R129: FX33, FX55, FX65 and DRW with N ≥ 1 whose last byte is at 4096 or above fault
MEM_RANGE with the lowest such address, and write nothing (decisions D2 and D7 of the spec, log
entry 14). -/
def Obligations.DataAccessOutOfRangeFaults : Prop :=
  ∀ (x y : Reg) (n : Nat) (s : State),
    (memSize ≤ s.i.toNat + 2 → ∃ t, exec (.ldBVx x) s = .next t ∧
      s.Faulted t .memRange (encode (.ldBVx x)) (BitVec.ofNat 16 (max s.i.toNat memSize))) ∧
    (memSize ≤ s.i.toNat + x.val → ∃ t, exec (.ldMemVx x) s = .next t ∧
      s.Faulted t .memRange (encode (.ldMemVx x)) (BitVec.ofNat 16 (max s.i.toNat memSize))) ∧
    (memSize ≤ s.i.toNat + x.val → ∃ t, exec (.ldVxMem x) s = .next t ∧
      s.Faulted t .memRange (encode (.ldVxMem x)) (BitVec.ofNat 16 (max s.i.toNat memSize))) ∧
    (1 ≤ n → memSize < s.i.toNat + n → ∃ t, exec (.drw x y n) s = .next t ∧
      s.Faulted t .memRange (encode (.drw x y n)) (BitVec.ofNat 16 (max s.i.toNat memSize)))

/-- R110, R111: registers dumped and then loaded from any place with the same bytes come back. -/
def Obligations.DumpThenLoadRestoresRegisters : Prop :=
  ∀ (x : Reg) (s t u : State), s.i.toNat + x.val < memSize → u.i.toNat + x.val < memSize →
    exec (.ldMemVx x) s = .next t →
    (∀ k : Reg, k ≤ x → u.readByte (u.i.toNat + k.val) = t.readByte (s.i.toNat + k.val)) →
    ∃ w, exec (.ldVxMem x) u = .next w ∧ ∀ k : Reg, k ≤ x → w.getV k = s.getV k

/-- R50, R152: bytes that FX55 stores are what a later fetch from there reads: with X ≥ 1 and PC put
at I, the step runs the instruction that V0, V1 spell. -/
def Obligations.StoredCodeIsFetched : Prop :=
  ∀ (x : Reg) (s t : State) (i : Instr), 1 ≤ x.val → s.i.toNat + x.val < memSize →
    s.fault.halted = false → exec (.ldMemVx x) s = .next t →
    decode (wordOfBytes (s.getV 0) (s.getV 1)) = .ok i →
    step (t.setPc s.i) = exec i (t.setPc s.i)

/-! ## Display (spec/40_display.md) -/

/-- R73: CLS, encoded 00E0, sets every pixel to 0 and nothing else changes. -/
def Obligations.ClearDisplayBlanksEveryPixel : Prop :=
  ∀ s : State, decode 0x00E0 = .ok .cls ∧ ∃ t, exec .cls s = .next t ∧
    (∀ y x, onScreen y x → pixelAt t.fb y x = false) ∧ t.pc = s.pc + 2 ∧ s.Traced t .cls ∧
    s.SameBut t (fun p => (∃ y x, p = .pixel y x) ∨ p = .pc ∨ p = .trace)

/-- R74 to R78: DRW XORs each on-screen pixel with the source bit on it, from the coordinates VX and
VY had before, skips what is off the grid, and VF is 1 exactly when a lit pixel was hit.  That bit 7 of a row byte is
the leftmost pixel is the spec's choice from general knowledge (R75, D26, log entry 5). -/
def Obligations.DrawXorsTheSpriteAndReportsCollision : Prop :=
  ∀ (x y : Reg) (n : Nat) (s : State), n = 0 ∨ s.i.toNat + n ≤ memSize →
    ∃ t, exec (.drw x y n) s = .next t ∧
      (∀ r c, onScreen r c → pixelAt t.fb r c =
        (pixelAt s.fb r c ^^ spriteBit (s.getV x).toNat (s.getV y).toNat (spriteRows s n) r c)) ∧
      ((∃ r c, onScreen r c ∧ pixelAt s.fb r c = true ∧ pixelAt t.fb r c = false) →
        t.getV Reg.vf = 0x01) ∧
      ((¬ ∃ r c, onScreen r c ∧ pixelAt s.fb r c = true ∧ pixelAt t.fb r c = false) →
        t.getV Reg.vf = 0x00) ∧
      t.pc = s.pc + 2 ∧ s.Traced t (.drw x y n) ∧
      s.SameBut t (fun p => (∃ r c, p = .pixel r c) ∨ p = .reg Reg.vf ∨ p = .pc ∨ p = .trace)

/-- R79: the same DRW twice (X and Y not F, whose value the first changes) restores the framebuffer,
and by R78 the second gives VF = 1 exactly when the first lit a pixel (log entry 16: R79 says less). -/
def Obligations.DrawTwiceRestoresTheFramebuffer : Prop :=
  ∀ (x y : Reg) (n : Nat) (s : State), x ≠ Reg.vf → y ≠ Reg.vf →
    n = 0 ∨ s.i.toNat + n ≤ memSize →
    ∃ t u, exec (.drw x y n) s = .next t ∧ exec (.drw x y n) t = .next u ∧ u.fb = s.fb ∧
      ((∃ r c, onScreen r c ∧ pixelAt s.fb r c = false ∧
          spriteBit (s.getV x).toNat (s.getV y).toNat (spriteRows s n) r c = true) ↔
        u.getV Reg.vf = 0x01)

/-! ## The writers tables -/

/-- R17 (the spec's own derivation): an instruction changes only the general registers that the table names for it. -/
def Obligations.OnlyTheListedInstructionsWriteRegisters : Prop :=
  ∀ (i : Instr) (s t : State) (r : Reg), exec i s = .next t → t.getV r ≠ s.getV r → i.writesReg r

/-- R19: no instruction other than ANNN, FX1E and FX29 changes I. -/
def Obligations.OnlyThreeInstructionsChangeTheIndex : Prop :=
  ∀ (i : Instr) (s t : State), exec i s = .next t → t.i ≠ s.i →
    i.mnemonic = .ldINnn ∨ i.mnemonic = .addIVx ∨ i.mnemonic = .ldFVx

/-- R23, R26 to R29, R34, R35, R40: only CALL writes the stack, only CALL and RET move SP, only FX15
writes DT, only FX18 writes ST, only CLS and DRW write pixels, only RND takes a draw, only FX33 and
FX55 store, within their bytes at I; no instruction writes the keypad, ROM_IMAGE or the parameters. -/
def Obligations.OtherStateIsWrittenOnlyByItsInstructions : Prop :=
  ∀ (i : Instr) (s t : State), exec i s = .next t →
    (t.stack ≠ s.stack → i.mnemonic = .call) ∧
    (t.sp ≠ s.sp → i.mnemonic = .call ∨ i.mnemonic = .ret) ∧
    (t.dt ≠ s.dt → i.mnemonic = .ldDtVx) ∧
    (t.st ≠ s.st → i.mnemonic = .ldStVx) ∧
    (t.fb ≠ s.fb → i.mnemonic = .cls ∨ i.mnemonic = .drw) ∧
    (t.rngIndex ≠ s.rngIndex → i.mnemonic = .rnd) ∧
    (∀ a, t.readByte a ≠ s.readByte a →
      s.i.toNat ≤ a ∧ a < s.i.toNat + i.storedBytes ∧ a < memSize) ∧
    t.keypad = s.keypad ∧ t.rom = s.rom ∧ t.cfg = s.cfg

/-- R27, R30, R35: the trace is "Diagnostic only" and no instruction reads ST or ROM_IMAGE: states
that differ only there step to states that differ only there. -/
def Obligations.TraceSoundAndRomNeverInfluenceAStep : Prop :=
  ∀ s s' : State, s.withoutUnread = s'.withoutUnread →
    ∃ t t', step s = .next t ∧ step s' = .next t' ∧ t.withoutUnread = t'.withoutUnread

/-! ## Invariants -/

/-- R143: the state after reset meets both invariants. -/
def Obligations.ResetStateMeetsTheInvariants : Prop :=
  State.reset.Inv ∧ State.reset.TraceInv

/-- Every step keeps the invariant: memory canonical and below 4096, SP one of 0..15 and 255 (R25),
the fault record coherent and at the fetch address (R118, R129), ROM_IMAGE within its bound. -/
def Obligations.EveryStepKeepsTheInvariant : Prop :=
  ∀ s t : State, s.Inv → step s = .next t → t.Inv

/-- Every step keeps every trace record the record of a word that decodes to its mnemonic (R31, R71,
R72). -/
def Obligations.EveryStepKeepsTheTraceCoherent : Prop :=
  ∀ s t : State, s.TraceInv → step s = .next t → t.TraceInv

/-- R126, R127: whatever transactions the host issues, in whatever order, from a block that meets the
invariant (from a block never loaded, in particular), the block meets it. -/
def Obligations.EveryTransactionSequenceKeepsTheInvariant : Prop :=
  ∀ (ts : List Transaction) (d d' : Device), d.Inv → transactAll d ts = .next d' → d'.Inv

/-! ## Transactions (spec/60_exceptions.md, spec/70_reset_and_hazards.md) -/

/-- R130: halted, STEP changes nothing and returns the recorded fault again, TICK and SET_KEY act as
usual and READ returns the views, all three keeping FAULT, and an accepted INIT or RESET clears FAULT
and starts afresh, as on a block never loaded.  The sticky fault and what acts while halted are the
spec's choice (D4, D19; log entry 14). -/
def Obligations.HaltedBlock : Prop :=
  ∀ s : State, s.fault.halted = true →
    transact (.loaded s) .step = .next (.loaded s, .fault s.fault.cause) ∧
    (∃ t, transact (.loaded s) .tick = .next (.loaded t, .ok) ∧
      t.dt.toNat = s.dt.toNat - 1 ∧ t.st.toNat = s.st.toNat - 1 ∧
      s.SameBut t (fun p => p = .dt ∨ p = .st)) ∧
    (∀ k p, ∃ t, transact (.loaded s) (.setKey k p) = .next (.loaded t, .ok) ∧
      t.keypad[k] = p ∧ (∀ j : Reg, j ≠ k → t.keypad[j] = s.keypad[j]) ∧
      s.SameBut t (fun q => q = .keypad)) ∧
    transact (.loaded s) .read = .next (.loaded s, .views s.views) ∧ s.views.fault = s.fault ∧
    (∀ p : List Byte, p.length ≤ progMax →
      ∃ t, transact (.loaded s) (.init p) = .next (.loaded t, .ok) ∧ t.fault = FaultRecord.clear ∧
        transact (.unloaded s.cfg s.rngIndex) (.init p) = .next (.loaded t, .ok)) ∧
    (s.rom.length ≤ progMax →
      ∃ t, transact (.loaded s) .reset = .next (.loaded t, .ok) ∧ t.fault = FaultRecord.clear ∧
        transact (.unloaded s.cfg s.rngIndex) (.init s.rom) = .next (.loaded t, .ok))

/-- R133: TICK takes one from each timer that is not 0, the two independently, and changes nothing
else. -/
def Obligations.TickDecrementsNonzeroTimers : Prop :=
  ∀ s : State, ∃ t, transact (.loaded s) .tick = .next (.loaded t, .ok) ∧
    (s.dt ≠ 0 → t.dt = s.dt - 1) ∧ (s.dt = 0 → t.dt = 0) ∧
    (s.st ≠ 0 → t.st = s.st - 1) ∧ (s.st = 0 → t.st = 0) ∧
    s.SameBut t (fun p => p = .dt ∨ p = .st)

/-- R134: after n TICKs a timer has lost n, and stays 0 from then on. -/
def Obligations.TimersCountTicksDownToZero : Prop :=
  ∀ (n : Nat) (s : State), ∃ t, transactAll (.loaded s) (List.replicate n .tick) = .next (.loaded t) ∧
    t.dt.toNat = s.dt.toNat - n ∧ t.st.toNat = s.st.toNat - n

/-- R135: SET_KEY sets the one key and changes nothing else. -/
def Obligations.SetKeyWritesOneKey : Prop :=
  ∀ (s : State) (k : Reg) (p : Bool), ∃ t,
    transact (.loaded s) (.setKey k p) = .next (.loaded t, .ok) ∧
    t.keypad[k] = p ∧ (∀ j : Reg, j ≠ k → t.keypad[j] = s.keypad[j]) ∧
    s.SameBut t (fun q => q = .keypad)

/-- R138: READ changes no state and returns the views.  The keypad, `tpos` and FAULT among them are
additions of the spec's own (D4, log entry 14). -/
def Obligations.ReadReturnsTheViews : Prop :=
  ∀ s : State, ∃ w, transact (.loaded s) .read = .next (.loaded s, .views w) ∧
    w.fb = s.fb ∧ w.v = s.v ∧ w.pc = s.pc ∧ w.i = s.i ∧ w.sp = s.sp ∧ w.dt = s.dt ∧ w.st = s.st ∧
    w.stack = s.stack ∧ w.trace = s.trace ∧ w.tpos = s.tpos ∧ w.keypad = s.keypad ∧
    w.fault = s.fault

/-- R143, R147, R148: INIT of a program of at most 3584 bytes leaves memory with the font, the program
and 0 elsewhere, and every other piece of state at its reset value, whatever the block held before;
the random source is not touched (its count of draws is the model's field, log entry 3).  That INIT
clears the keypad, and the fields of FAULT, are the spec's choice (D17; D4, D23; log entry 14). -/
def Obligations.InitLeavesTheResetState : Prop :=
  ∀ (d : Device) (cfg : Config) (n : Nat) (p : List Byte), d.holds cfg n → p.length ≤ progMax →
    ∃ t, transact d (.init p) = .next (.loaded t, .ok) ∧
      (∀ a, a < memSize → t.readByte a =
        if 0x100 ≤ a ∧ a < 0x150 then cfg.font.toList.getD (a - 0x100) 0
        else if 0x200 ≤ a ∧ a < 0x200 + p.length then p.getD (a - 0x200) 0 else 0x00) ∧
      (∀ r, t.getV r = 0x00) ∧ (∀ k : Fin 16, t.stack[k] = 0x0000) ∧
      (∀ k : Reg, t.keypad[k] = false) ∧
      (∀ k : Fin 16, t.trace[k] = { addr := 0, op := 0, mn := .none }) ∧
      t.i = 0x0000 ∧ t.pc = 0x0200 ∧ t.sp = 15 ∧ t.dt = 0x00 ∧ t.st = 0x00 ∧
      (∀ y x, onScreen y x → pixelAt t.fb y x = false) ∧ t.tpos = 0 ∧
      t.fault = { halted := false, cause := .none, addr := 0, op := 0, info := 0 } ∧
      t.rom = p ∧ t.cfg = cfg ∧ t.rngIndex = n

/-- R144: INIT of a program of more than 3584 bytes returns LOAD_REJECT and changes nothing.  This
policy is wholly the spec's choice (D5, log entry 14): the source leaves the point open. -/
def Obligations.OversizedProgramIsRejected : Prop :=
  ∀ (d : Device) (p : List Byte), progMax < p.length →
    transact d (.init p) = .next (d, .loadReject)

/-- R145: RESET is INIT from ROM_IMAGE, and is not rejected, whatever happened since the INIT. -/
def Obligations.ResetRerunsInitFromRomImage : Prop :=
  ∀ s : State, s.rom.length ≤ progMax →
    ∃ t, transact (.loaded s) .reset = .next (.loaded t, .ok) ∧
      transact (.loaded s) (.init s.rom) = .next (.loaded t, .ok)

/-- R146, R128: before the first accepted INIT every transaction but INIT is refused, the spec's choice
(D5, log entry 14), in the form of the model's own Device and refusal (log entry 10). -/
def Obligations.TransactionsBeforeInitAreRefused : Prop :=
  ∀ (cfg : Config) (n : Nat) (t : Transaction), (∀ p, t ≠ .init p) →
    transact (.unloaded cfg n) t = .refused .beforeFirstInit

/-- R141: from an idle state that is not halted, a STEP leaves the state as it is but for the trace,
and idle again (decision D22 of the spec, log entry 14). -/
def Obligations.IdleStepChangesOnlyTheTrace : Prop :=
  ∀ s : State, s.idle = true → s.fault.halted = false →
    ∃ t, step s = .next t ∧ s.SameBut t (fun p => p = .trace) ∧ t.idle = true

/-- R157: after INIT of the empty program the first STEP reads 0x0000 at 0x200 and faults
UNIMPLEMENTED there; `State.reset` is that INIT with the parameters at the spec's defaults (log
entries 1, 2 and 3). -/
def Obligations.EmptyProgramFaultsAtTheFirstStep : Prop :=
  transact (.unloaded Config.default 0) (.init []) = .next (.loaded State.reset, .ok) ∧
  ∃ t, step State.reset = .next t ∧
    t.fault = { halted := true, cause := .unimplemented, addr := 0x0200, op := 0x0000, info := 0x0000 } ∧
    t.pc = 0x0200
end

