-- ==== Sys2Proof/Laws/Decode.lean ====
section
/-! SUPPORT. The fields of an encoded word, and a word from its fields (spec/30_encoding.md R54, R55). -/

namespace Sys2Proof

theorem toFin_regBits (r : Reg) : (regBits r).toFin = r := rfl

theorem regBits_toFin (b : Nibble) : regBits b.toFin = b := rfl

/-! ## Fields of the formats -/

theorem encodeNNN_toNat (op : Nibble) (nnn : Addr12) :
    (encodeNNN op nnn).toNat = op.toNat * 4096 + nnn.toNat := by
  have h := nnn.isLt
  rw [encodeNNN, BitVec.toNat_append, Nat.shiftLeft_eq, Nat.mul_comm,
    ← Nat.two_pow_add_eq_or_of_lt h]

@[simp] theorem fieldOp_encodeNNN (op : Nibble) (nnn : Addr12) : fieldOp (encodeNNN op nnn) = op := by
  apply BitVec.eq_of_toNat_eq
  have := nnn.isLt
  have := op.isLt
  rw [fieldOp, BitVec.extractLsb'_toNat, encodeNNN_toNat, Nat.shiftRight_eq_div_pow]
  omega

@[simp] theorem fieldNNN_encodeNNN (op : Nibble) (nnn : Addr12) :
    fieldNNN (encodeNNN op nnn) = nnn := by
  apply BitVec.eq_of_toNat_eq
  have := nnn.isLt
  have := op.isLt
  rw [fieldNNN, BitVec.extractLsb'_toNat, encodeNNN_toNat, Nat.shiftRight_eq_div_pow]
  omega

theorem encodeXNN_toNat (op : Nibble) (x : Reg) (nn : Byte) :
    (encodeXNN op x nn).toNat = op.toNat * 4096 + x.val * 256 + nn.toNat := by
  have h := nn.isLt
  have hx : (regBits x ++ nn).toNat = x.val * 256 + nn.toNat := by
    rw [BitVec.toNat_append, Nat.shiftLeft_eq, Nat.mul_comm, ← Nat.two_pow_add_eq_or_of_lt h]
    simp only [regBits, BitVec.toNat_ofFin]
    omega
  have := encodeNNN_toNat op (regBits x ++ nn)
  rw [hx] at this
  exact this.trans (by omega)

@[simp] theorem fieldOp_encodeXNN (op : Nibble) (x : Reg) (nn : Byte) :
    fieldOp (encodeXNN op x nn) = op := fieldOp_encodeNNN op (regBits x ++ nn)

@[simp] theorem fieldX_encodeXNN (op : Nibble) (x : Reg) (nn : Byte) :
    fieldX (encodeXNN op x nn) = x := by
  have h : (encodeXNN op x nn).extractLsb' 8 4 = regBits x := by
    apply BitVec.eq_of_toNat_eq
    have := nn.isLt
    have := op.isLt
    have := x.isLt
    rw [BitVec.extractLsb'_toNat, encodeXNN_toNat, Nat.shiftRight_eq_div_pow]
    simp only [regBits, BitVec.toNat_ofFin]
    omega
  rw [fieldX, h, toFin_regBits]

@[simp] theorem fieldNN_encodeXNN (op : Nibble) (x : Reg) (nn : Byte) :
    fieldNN (encodeXNN op x nn) = nn := by
  apply BitVec.eq_of_toNat_eq
  have := nn.isLt
  rw [fieldNN, BitVec.extractLsb'_toNat, encodeXNN_toNat, Nat.shiftRight_eq_div_pow]
  omega

theorem encodeXYN_eq (op : Nibble) (x : Reg) (y n : Nibble) :
    encodeXYN op x y n = encodeXNN op x (y ++ n : Byte) := rfl

@[simp] theorem fieldOp_encodeXYN (op : Nibble) (x : Reg) (y n : Nibble) :
    fieldOp (encodeXYN op x y n) = op := fieldOp_encodeXNN op x (y ++ n)

@[simp] theorem fieldX_encodeXYN (op : Nibble) (x : Reg) (y n : Nibble) :
    fieldX (encodeXYN op x y n) = x := fieldX_encodeXNN op x (y ++ n)

theorem encodeXYN_toNat (op : Nibble) (x : Reg) (y n : Nibble) :
    (encodeXYN op x y n).toNat = op.toNat * 4096 + x.val * 256 + y.toNat * 16 + n.toNat := by
  have h := n.isLt
  have hy : (y ++ n).toNat = y.toNat * 16 + n.toNat := by
    rw [BitVec.toNat_append, Nat.shiftLeft_eq, Nat.mul_comm, ← Nat.two_pow_add_eq_or_of_lt h]
  have := encodeXNN_toNat op x (y ++ n)
  rw [hy] at this
  exact this.trans (by omega)

@[simp] theorem fieldYBits_encodeXYN (op : Nibble) (x : Reg) (y n : Nibble) :
    fieldYBits (encodeXYN op x y n) = y := by
  apply BitVec.eq_of_toNat_eq
  have := n.isLt
  have := y.isLt
  rw [fieldYBits, BitVec.extractLsb'_toNat, encodeXYN_toNat, Nat.shiftRight_eq_div_pow]
  omega

@[simp] theorem fieldY_encodeXYN (op : Nibble) (x y : Reg) (n : Nibble) :
    fieldY (encodeXYN op x (regBits y) n) = y := by
  have h := fieldYBits_encodeXYN op x (regBits y) n
  rw [fieldYBits] at h
  rw [fieldY, h, toFin_regBits]

@[simp] theorem fieldN_encodeXYN (op : Nibble) (x : Reg) (y n : Nibble) :
    fieldN (encodeXYN op x y n) = n := by
  apply BitVec.eq_of_toNat_eq
  have := n.isLt
  rw [fieldN, BitVec.extractLsb'_toNat, encodeXYN_toNat, Nat.shiftRight_eq_div_pow]
  omega

/-! ## A word from its fields -/

/-- A word is its family selector and its address field. -/
theorem encodeNNN_fields (w : Word) : encodeNNN (fieldOp w) (fieldNNN w) = w := by
  apply BitVec.eq_of_toNat_eq
  have := w.isLt
  rw [encodeNNN_toNat, fieldOp, fieldNNN, BitVec.extractLsb'_toNat, BitVec.extractLsb'_toNat,
    Nat.shiftRight_eq_div_pow, Nat.shiftRight_eq_div_pow]
  omega

/-- A word is its family selector, X and NN. -/
theorem encodeXNN_fields (w : Word) : encodeXNN (fieldOp w) (fieldX w) (fieldNN w) = w := by
  apply BitVec.eq_of_toNat_eq
  have := w.isLt
  have hx : (fieldX w).val = w.toNat / 256 % 16 := by
    rw [fieldX, BitVec.val_toFin, BitVec.extractLsb'_toNat, Nat.shiftRight_eq_div_pow]
  rw [encodeXNN_toNat, hx, fieldOp, fieldNN, BitVec.extractLsb'_toNat, BitVec.extractLsb'_toNat,
    Nat.shiftRight_eq_div_pow, Nat.shiftRight_eq_div_pow]
  omega

/-- A word is its family selector, X, Y and N. -/
theorem encodeXYN_fields (w : Word) :
    encodeXYN (fieldOp w) (fieldX w) (fieldYBits w) (fieldN w) = w := by
  apply BitVec.eq_of_toNat_eq
  have := w.isLt
  have hx : (fieldX w).val = w.toNat / 256 % 16 := by
    rw [fieldX, BitVec.val_toFin, BitVec.extractLsb'_toNat, Nat.shiftRight_eq_div_pow]
  rw [encodeXYN_toNat, hx, fieldOp, fieldYBits, fieldN, BitVec.extractLsb'_toNat,
    BitVec.extractLsb'_toNat, BitVec.extractLsb'_toNat,
    Nat.shiftRight_eq_div_pow, Nat.shiftRight_eq_div_pow, Nat.shiftRight_eq_div_pow]
  omega

theorem regBits_fieldY (w : Word) : regBits (fieldY w) = fieldYBits w := rfl

/-! ## Masks of the opcode table (R62) -/

theorem getLsbD_encodeNNN (op : Nibble) (a : Addr12) (k : Nat) :
    (encodeNNN op a).getLsbD k = if k < 12 then a.getLsbD k else op.getLsbD (k - 12) := by
  exact BitVec.getLsbD_append

theorem getLsbD_encodeXNN (op : Nibble) (x : Reg) (nn : Byte) (k : Nat) :
    (encodeXNN op x nn).getLsbD k =
      if k < 8 then nn.getLsbD k
      else if k < 12 then (regBits x).getLsbD (k - 8) else op.getLsbD (k - 12) := by
  have h1 := getLsbD_encodeNNN op (regBits x ++ nn) k
  have h2 : (regBits x ++ nn).getLsbD k =
      if k < 8 then nn.getLsbD k else (regBits x).getLsbD (k - 8) := BitVec.getLsbD_append
  refine h1.trans ?_
  by_cases h8 : k < 8
  · rw [if_pos (by omega), if_pos h8]; exact h2.trans (if_pos h8)
  · by_cases h12 : k < 12
    · rw [if_pos h12, if_neg h8, if_pos h12]; exact h2.trans (if_neg h8)
    · rw [if_neg h12, if_neg h8, if_neg h12]

theorem getLsbD_encodeXYN (op : Nibble) (x : Reg) (y n : Nibble) (k : Nat) :
    (encodeXYN op x y n).getLsbD k =
      if k < 4 then n.getLsbD k
      else if k < 8 then y.getLsbD (k - 4)
      else if k < 12 then (regBits x).getLsbD (k - 8) else op.getLsbD (k - 12) := by
  have h1 := getLsbD_encodeXNN op x (y ++ n) k
  have h2 : (y ++ n).getLsbD k = if k < 4 then n.getLsbD k else y.getLsbD (k - 4) :=
    BitVec.getLsbD_append
  refine h1.trans ?_
  by_cases h4 : k < 4
  · rw [if_pos (by omega), if_pos h4]; exact h2.trans (if_pos h4)
  · by_cases h8 : k < 8
    · rw [if_pos h8, if_neg h4, if_pos h8]; exact h2.trans (if_neg h4)
    · rw [if_neg h8, if_neg h4, if_neg h8]

theorem and_F000 (w : Word) : w &&& 0xF000#16 = encodeNNN (fieldOp w) 0 := by
  apply BitVec.eq_of_getLsbD_eq
  intro k hk
  interval_cases k <;> simp [getLsbD_encodeNNN, fieldOp, -BitVec.getLsbD_eq_getElem]

theorem and_F0FF (w : Word) : w &&& 0xF0FF#16 = encodeXNN (fieldOp w) 0 (fieldNN w) := by
  apply BitVec.eq_of_getLsbD_eq
  intro k hk
  interval_cases k <;> simp [getLsbD_encodeXNN, regBits, fieldOp, fieldNN, -BitVec.getLsbD_eq_getElem]

theorem and_F00F (w : Word) : w &&& 0xF00F#16 = encodeXYN (fieldOp w) 0 0 (fieldN w) := by
  apply BitVec.eq_of_getLsbD_eq
  intro k hk
  interval_cases k <;> simp [getLsbD_encodeXYN, regBits, fieldOp, fieldN, -BitVec.getLsbD_eq_getElem]

/-! ## Bytes of a word -/

/-- The two bytes of a word, high byte first, are the word (R38). -/
@[simp] theorem wordOfBytes_high_low (w : Word) : wordOfBytes (highByte w) (lowByte w) = w := by
  apply BitVec.eq_of_toNat_eq
  have hl : (lowByte w).toNat < 2 ^ 8 := (lowByte w).isLt
  have := w.isLt
  rw [wordOfBytes, BitVec.toNat_append, Nat.shiftLeft_eq, Nat.mul_comm,
    ← Nat.two_pow_add_eq_or_of_lt hl, highByte, lowByte, BitVec.extractLsb'_toNat,
    BitVec.extractLsb'_toNat, Nat.shiftRight_eq_div_pow, Nat.shiftRight_eq_div_pow]
  omega

end Sys2Proof
end

