-- ==== Sys2Proof/Laws/Memory.lean ====
section
/-! SUPPORT. Memory: what a read gives after a write, and that every operation keeps the canonical
form (spec/20_memory.md R37, R46). -/

namespace Sys2Proof.Machine

/-! ## Reads after writes -/

theorem memoryRead_erase (font : Font) (m : Memory) (a c : Nat) :
    memoryRead font (memoryErase m a) c = if c = a then unlistedByte font c else memoryRead font m c := by
  induction m with
  | nil => simp [memoryErase, memoryRead]
  | cons d m ih =>
    simp only [memoryErase] at ih ⊢
    by_cases hd : d.1 = a
    · rw [List.filter_cons_of_neg (by simp [hd]), ih]
      split
      · rfl
      · next h => simp [memoryRead, hd, h]
    · rw [List.filter_cons_of_pos (by simp [hd])]
      simp only [memoryRead, ih]
      by_cases hc : c = d.1
      · have : c ≠ a := hc ▸ hd
        simp [hc, hd]
      · simp [hc]

theorem memoryRead_insert_self (font : Font) (m : Memory) (a : Nat) (b : Byte)
    (h : ∀ c ∈ m, c.1 ≠ a) : memoryRead font (memoryInsert a b m) a = b := by
  induction m with
  | nil => simp [memoryInsert, memoryRead]
  | cons d m ih =>
    unfold memoryInsert
    split
    · simp [memoryRead]
    · have hd : a ≠ d.1 := fun e => h d (by simp) e.symm
      simp only [memoryRead, if_neg hd]
      exact ih fun c hc => h c (by simp [hc])

theorem memoryRead_insert_ne (font : Font) (m : Memory) (b : Byte) {a c : Nat} (h : c ≠ a) :
    memoryRead font (memoryInsert a b m) c = memoryRead font m c := by
  induction m with
  | nil => simp [memoryInsert, memoryRead, h]
  | cons d m ih =>
    unfold memoryInsert
    split
    · simp [memoryRead, h]
    · simp only [memoryRead, ih]

/-- A byte read after a write: the byte written at its address, the old one elsewhere (R46). -/
theorem memoryRead_write (font : Font) (m : Memory) (a c : Nat) (b : Byte) :
    memoryRead font (memoryWrite font m a b) c = if c = a then b else memoryRead font m c := by
  unfold memoryWrite
  split
  · next h => rw [memoryRead_erase]; split <;> simp_all
  · by_cases hc : c = a
    · subst hc
      rw [if_pos rfl, memoryRead_insert_self]
      intro d hd
      simpa using (List.mem_filter.1 hd).2
    · rw [memoryRead_insert_ne _ _ _ hc, memoryRead_erase, if_neg hc, if_neg hc]

theorem getElem_cons_sub {b : Byte} {bs : List Byte} {a c : Nat}
    (h : a ≤ c ∧ c < a + (b :: bs).length) (h1 : a + 1 ≤ c ∧ c < a + 1 + bs.length) :
    (b :: bs)[c - a]'(by omega) = bs[c - (a + 1)]'(by omega) := by
  rw [List.getElem_cons, dif_neg (by omega)]
  simp only [Nat.sub_sub]

/-- A byte read after bytes are written from `a` on: the byte written there, the old one elsewhere. -/
theorem memoryRead_writeBytes (font : Font) (bs : List Byte) (m : Memory) (a c : Nat) :
    memoryRead font (memoryWriteBytes font m a bs) c =
      if h : a ≤ c ∧ c < a + bs.length then bs[c - a] else memoryRead font m c := by
  induction bs generalizing m a with
  | nil => simp [memoryWriteBytes, show ¬ (a ≤ c ∧ c < a) by omega]
  | cons b bs ih =>
    rw [memoryWriteBytes, ih]
    by_cases h1 : a + 1 ≤ c ∧ c < a + 1 + bs.length
    · have h2 : a ≤ c ∧ c < a + (b :: bs).length := by simp only [List.length_cons]; omega
      rw [dif_pos h1, dif_pos h2]
      exact (getElem_cons_sub h2 h1).symm
    · rw [dif_neg h1, memoryRead_write]
      by_cases hc : c = a
      · subst hc; simp
      · have h2 : ¬ (a ≤ c ∧ c < a + (b :: bs).length) := by simp only [List.length_cons]; omega
        rw [dif_neg h2, if_neg hc]

/-- A byte of the memory INIT makes of the program (R52, R143). -/
theorem memoryRead_ofBytes (font : Font) (bs : List Byte) (a c : Nat) :
    memoryRead font (memoryOfBytes font a bs) c =
      if h : a ≤ c ∧ c < a + bs.length then bs[c - a] else unlistedByte font c := by
  induction bs generalizing a with
  | nil => simp [memoryOfBytes, memoryRead, show ¬ (a ≤ c ∧ c < a) by omega]
  | cons b bs ih =>
    have hr : memoryRead font (memoryOfBytes font a (b :: bs)) c =
        if c = a then b else memoryRead font (memoryOfBytes font (a + 1) bs) c := by
      rw [memoryOfBytes]
      split
      · next hb =>
        split
        · next hc => rw [ih, dif_neg (by omega), hc, hb]
        · rfl
      · rfl
    rw [hr, ih]
    by_cases h1 : a + 1 ≤ c ∧ c < a + 1 + bs.length
    · have h2 : a ≤ c ∧ c < a + (b :: bs).length := by simp only [List.length_cons]; omega
      have hc : c ≠ a := by omega
      rw [dif_pos h1, dif_pos h2, if_neg hc]
      exact (getElem_cons_sub h2 h1).symm
    · rw [dif_neg h1]
      by_cases hc : c = a
      · subst hc; simp
      · have h2 : ¬ (a ≤ c ∧ c < a + (b :: bs).length) := by simp only [List.length_cons]; omega
        rw [dif_neg h2, if_neg hc]

/-! ## The canonical form -/

theorem memoryWfFrom_mono (font : Font) (m : Memory) {lo lo' : Nat} (h : lo' ≤ lo)
    (hw : memoryWfFrom font lo m = true) : memoryWfFrom font lo' m = true := by
  cases m with
  | nil => rfl
  | cons c m =>
    simp only [memoryWfFrom, Bool.and_eq_true, decide_eq_true_eq] at hw ⊢
    exact ⟨⟨⟨by omega, hw.1.1.2⟩, hw.1.2⟩, hw.2⟩

theorem memoryWfFrom_erase (font : Font) (m : Memory) (lo a : Nat)
    (hw : memoryWfFrom font lo m = true) : memoryWfFrom font lo (memoryErase m a) = true := by
  induction m generalizing lo with
  | nil => rfl
  | cons c m ih =>
    simp only [memoryWfFrom, Bool.and_eq_true, decide_eq_true_eq] at hw
    obtain ⟨⟨⟨h1, h2⟩, h3⟩, h4⟩ := hw
    simp only [memoryErase] at ih ⊢
    by_cases hc : c.1 = a
    · rw [List.filter_cons_of_neg (by simp [hc])]
      exact memoryWfFrom_mono font _ (by omega) (ih (c.1 + 1) h4)
    · rw [List.filter_cons_of_pos (by simp [hc])]
      simp only [memoryWfFrom, Bool.and_eq_true, decide_eq_true_eq]
      exact ⟨⟨⟨h1, h2⟩, h3⟩, ih (c.1 + 1) h4⟩

theorem memoryWfFrom_insert (font : Font) (m : Memory) {lo a : Nat} {b : Byte} (hlo : lo ≤ a)
    (ha : a < memSize) (hb : b ≠ unlistedByte font a) (hm : ∀ c ∈ m, c.1 ≠ a)
    (hw : memoryWfFrom font lo m = true) : memoryWfFrom font lo (memoryInsert a b m) = true := by
  induction m generalizing lo with
  | nil => simp [memoryInsert, memoryWfFrom, hlo, ha, hb]
  | cons c m ih =>
    simp only [memoryWfFrom, Bool.and_eq_true, decide_eq_true_eq] at hw
    obtain ⟨⟨⟨h1, h2⟩, h3⟩, h4⟩ := hw
    have hca : c.1 ≠ a := hm c (by simp)
    unfold memoryInsert
    split
    · next hlt =>
      simp only [memoryWfFrom, Bool.and_eq_true, decide_eq_true_eq]
      exact ⟨⟨⟨hlo, ha⟩, hb⟩, ⟨⟨by omega, h2⟩, h3⟩, h4⟩
    · simp only [memoryWfFrom, Bool.and_eq_true, decide_eq_true_eq]
      exact ⟨⟨⟨h1, h2⟩, h3⟩, ih (by omega) (fun d hd => hm d (by simp [hd])) h4⟩

/-- A write below 4096 keeps the canonical form. -/
theorem memoryWrite_wf (font : Font) (m : Memory) (a : Nat) (b : Byte) (ha : a < memSize)
    (hw : Memory.wf font m = true) : Memory.wf font (memoryWrite font m a b) = true := by
  unfold Memory.wf memoryWrite at *
  split
  · exact memoryWfFrom_erase font m 0 a hw
  · next hb =>
    refine memoryWfFrom_insert font _ (Nat.zero_le a) ha hb ?_ (memoryWfFrom_erase font m 0 a hw)
    intro c hc
    simpa using (List.mem_filter.1 hc).2

/-- Writes below 4096 keep the canonical form. -/
theorem memoryWriteBytes_wf (font : Font) (bs : List Byte) (m : Memory) (a : Nat)
    (ha : a + bs.length ≤ memSize) (hw : Memory.wf font m = true) :
    Memory.wf font (memoryWriteBytes font m a bs) = true := by
  induction bs generalizing m a with
  | nil => exact hw
  | cons b bs ih =>
    simp only [List.length_cons] at ha
    exact ih _ (a + 1) (by omega) (memoryWrite_wf font m a b (by omega) hw)

theorem memoryOfBytes_wfFrom (font : Font) (bs : List Byte) (a : Nat) (ha : a + bs.length ≤ memSize) :
    memoryWfFrom font a (memoryOfBytes font a bs) = true := by
  induction bs generalizing a with
  | nil => rfl
  | cons b bs ih =>
    simp only [List.length_cons] at ha
    have := ih (a + 1) (by omega)
    unfold memoryOfBytes
    split
    · exact memoryWfFrom_mono font _ (by omega) this
    · next hb =>
      simp only [memoryWfFrom, Bool.and_eq_true, decide_eq_true_eq]
      exact ⟨⟨⟨Nat.le_refl a, by omega⟩, hb⟩, this⟩

/-- The memory INIT makes of a program that fits is in canonical form (R52, R143). -/
theorem memoryOfBytes_wf (font : Font) (bs : List Byte) (a : Nat) (ha : a + bs.length ≤ memSize) :
    Memory.wf font (memoryOfBytes font a bs) = true :=
  memoryWfFrom_mono font _ (Nat.zero_le a) (memoryOfBytes_wfFrom font bs a ha)

/-- The memory that lists nothing is in canonical form. -/
@[simp] theorem memory_nil_wf (font : Font) : Memory.wf font [] = true := rfl

/-! ## Equal memories -/

theorem memoryRead_lt (font : Font) (m : Memory) {lo a : Nat} (h : a < lo)
    (hw : memoryWfFrom font lo m = true) : memoryRead font m a = unlistedByte font a := by
  induction m generalizing lo with
  | nil => rfl
  | cons c m ih =>
    simp only [memoryWfFrom, Bool.and_eq_true, decide_eq_true_eq] at hw
    simp only [memoryRead, if_neg (show a ≠ c.1 by omega)]
    exact ih (lo := c.1 + 1) (by omega) hw.2

/-- In canonical form, memories that read the same everywhere are the same data. -/
theorem memory_ext (font : Font) (m m' : Memory) (hm : Memory.wf font m = true)
    (hm' : Memory.wf font m' = true) (h : ∀ a, memoryRead font m a = memoryRead font m' a) :
    m = m' := by
  suffices ∀ lo, memoryWfFrom font lo m = true → memoryWfFrom font lo m' = true →
      (∀ a, memoryRead font m a = memoryRead font m' a) → m = m' from this 0 hm hm' h
  clear hm hm' h
  induction m generalizing m' with
  | nil =>
    intro lo _ hm' h
    cases m' with
    | nil => rfl
    | cons c m' =>
      simp only [memoryWfFrom, Bool.and_eq_true, decide_eq_true_eq] at hm'
      have := h c.1
      simp only [memoryRead, if_pos] at this
      exact absurd this.symm hm'.1.2
  | cons c m ih =>
    intro lo hm hm' h
    have hm0 := hm
    simp only [memoryWfFrom, Bool.and_eq_true, decide_eq_true_eq] at hm
    cases m' with
    | nil =>
      have := h c.1
      simp only [memoryRead, if_pos] at this
      exact absurd this hm.1.2
    | cons d m' =>
      have hm0' := hm'
      simp only [memoryWfFrom, Bool.and_eq_true, decide_eq_true_eq] at hm'
      have hcd : c.1 = d.1 := by
        rcases Nat.lt_trichotomy c.1 d.1 with hlt | heq | hgt
        · have e := h c.1
          rw [memoryRead_lt font (d :: m') (lo := d.1) hlt
            (by simp only [memoryWfFrom, Bool.and_eq_true, decide_eq_true_eq]; exact ⟨⟨⟨Nat.le_refl _, hm'.1.1.2⟩, hm'.1.2⟩, hm'.2⟩)] at e
          simp only [memoryRead, if_pos] at e
          exact absurd e hm.1.2
        · exact heq
        · have e := h d.1
          rw [memoryRead_lt font (c :: m) (lo := c.1) hgt
            (by simp only [memoryWfFrom, Bool.and_eq_true, decide_eq_true_eq]; exact ⟨⟨⟨Nat.le_refl _, hm.1.1.2⟩, hm.1.2⟩, hm.2⟩)] at e
          simp only [memoryRead, if_pos] at e
          exact absurd e.symm hm'.1.2
      have hb : c.2 = d.2 := by
        have := h c.1
        simp only [memoryRead, if_pos, if_pos hcd] at this
        exact this
      have htail : m = m' := by
        refine ih m' (c.1 + 1) hm.2 (hcd ▸ hm'.2) ?_
        intro a
        by_cases ha : a < c.1 + 1
        · rw [memoryRead_lt font m ha hm.2, memoryRead_lt font m' (hcd ▸ ha) hm'.2]
        · have := h a
          simp only [memoryRead, if_neg (show a ≠ c.1 by omega), if_neg (show a ≠ d.1 by omega)] at this
          exact this
      exact List.cons_eq_cons.2 ⟨Prod.ext hcd hb, htail⟩

end Sys2Proof.Machine
end

