-- ==== Sys2Proof/Laws/State.lean ====
section
/-! SUPPORT. What each named update of the state does to each field: one lemma per field and update,
all true by rfl, so that no later proof unfolds a record update. -/

namespace Sys2Proof.Machine

/-! ## setV -/

@[simp] theorem State.setV_mem (s : State) (x : Reg) (b : Byte) : (s.setV x b).mem = s.mem := rfl
@[simp] theorem State.setV_v (s : State) (x : Reg) (b : Byte) : (s.setV x b).v = s.v.set x b := rfl
@[simp] theorem State.setV_i (s : State) (x : Reg) (b : Byte) : (s.setV x b).i = s.i := rfl
@[simp] theorem State.setV_pc (s : State) (x : Reg) (b : Byte) : (s.setV x b).pc = s.pc := rfl
@[simp] theorem State.setV_sp (s : State) (x : Reg) (b : Byte) : (s.setV x b).sp = s.sp := rfl
@[simp] theorem State.setV_stack (s : State) (x : Reg) (b : Byte) :
    (s.setV x b).stack = s.stack := rfl
@[simp] theorem State.setV_dt (s : State) (x : Reg) (b : Byte) : (s.setV x b).dt = s.dt := rfl
@[simp] theorem State.setV_st (s : State) (x : Reg) (b : Byte) : (s.setV x b).st = s.st := rfl
@[simp] theorem State.setV_fb (s : State) (x : Reg) (b : Byte) : (s.setV x b).fb = s.fb := rfl
@[simp] theorem State.setV_keypad (s : State) (x : Reg) (b : Byte) :
    (s.setV x b).keypad = s.keypad := rfl
@[simp] theorem State.setV_trace (s : State) (x : Reg) (b : Byte) :
    (s.setV x b).trace = s.trace := rfl
@[simp] theorem State.setV_tpos (s : State) (x : Reg) (b : Byte) : (s.setV x b).tpos = s.tpos := rfl
@[simp] theorem State.setV_fault (s : State) (x : Reg) (b : Byte) :
    (s.setV x b).fault = s.fault := rfl
@[simp] theorem State.setV_rom (s : State) (x : Reg) (b : Byte) : (s.setV x b).rom = s.rom := rfl
@[simp] theorem State.setV_cfg (s : State) (x : Reg) (b : Byte) : (s.setV x b).cfg = s.cfg := rfl
@[simp] theorem State.setV_rngIndex (s : State) (x : Reg) (b : Byte) :
    (s.setV x b).rngIndex = s.rngIndex := rfl
@[simp] theorem State.setV_readByte (s : State) (x : Reg) (b : Byte) (c : Nat) :
    (s.setV x b).readByte c = s.readByte c := rfl
@[simp] theorem State.setV_nextDraw (s : State) (x : Reg) (b : Byte) :
    (s.setV x b).nextDraw = s.nextDraw := rfl

/-! ## setVs -/

@[simp] theorem State.setVs_mem (s : State) (vs : Vector Byte 16) : (s.setVs vs).mem = s.mem := rfl
@[simp] theorem State.setVs_v (s : State) (vs : Vector Byte 16) : (s.setVs vs).v = vs := rfl
@[simp] theorem State.setVs_i (s : State) (vs : Vector Byte 16) : (s.setVs vs).i = s.i := rfl
@[simp] theorem State.setVs_pc (s : State) (vs : Vector Byte 16) : (s.setVs vs).pc = s.pc := rfl
@[simp] theorem State.setVs_sp (s : State) (vs : Vector Byte 16) : (s.setVs vs).sp = s.sp := rfl
@[simp] theorem State.setVs_stack (s : State) (vs : Vector Byte 16) :
    (s.setVs vs).stack = s.stack := rfl
@[simp] theorem State.setVs_dt (s : State) (vs : Vector Byte 16) : (s.setVs vs).dt = s.dt := rfl
@[simp] theorem State.setVs_st (s : State) (vs : Vector Byte 16) : (s.setVs vs).st = s.st := rfl
@[simp] theorem State.setVs_fb (s : State) (vs : Vector Byte 16) : (s.setVs vs).fb = s.fb := rfl
@[simp] theorem State.setVs_keypad (s : State) (vs : Vector Byte 16) :
    (s.setVs vs).keypad = s.keypad := rfl
@[simp] theorem State.setVs_trace (s : State) (vs : Vector Byte 16) :
    (s.setVs vs).trace = s.trace := rfl
@[simp] theorem State.setVs_tpos (s : State) (vs : Vector Byte 16) :
    (s.setVs vs).tpos = s.tpos := rfl
@[simp] theorem State.setVs_fault (s : State) (vs : Vector Byte 16) :
    (s.setVs vs).fault = s.fault := rfl
@[simp] theorem State.setVs_rom (s : State) (vs : Vector Byte 16) : (s.setVs vs).rom = s.rom := rfl
@[simp] theorem State.setVs_cfg (s : State) (vs : Vector Byte 16) : (s.setVs vs).cfg = s.cfg := rfl
@[simp] theorem State.setVs_rngIndex (s : State) (vs : Vector Byte 16) :
    (s.setVs vs).rngIndex = s.rngIndex := rfl
@[simp] theorem State.setVs_readByte (s : State) (vs : Vector Byte 16) (c : Nat) :
    (s.setVs vs).readByte c = s.readByte c := rfl
@[simp] theorem State.setVs_nextDraw (s : State) (vs : Vector Byte 16) :
    (s.setVs vs).nextDraw = s.nextDraw := rfl

/-! ## setI -/

@[simp] theorem State.setI_mem (s : State) (w : Word) : (s.setI w).mem = s.mem := rfl
@[simp] theorem State.setI_v (s : State) (w : Word) : (s.setI w).v = s.v := rfl
@[simp] theorem State.setI_i (s : State) (w : Word) : (s.setI w).i = w := rfl
@[simp] theorem State.setI_pc (s : State) (w : Word) : (s.setI w).pc = s.pc := rfl
@[simp] theorem State.setI_sp (s : State) (w : Word) : (s.setI w).sp = s.sp := rfl
@[simp] theorem State.setI_stack (s : State) (w : Word) : (s.setI w).stack = s.stack := rfl
@[simp] theorem State.setI_dt (s : State) (w : Word) : (s.setI w).dt = s.dt := rfl
@[simp] theorem State.setI_st (s : State) (w : Word) : (s.setI w).st = s.st := rfl
@[simp] theorem State.setI_fb (s : State) (w : Word) : (s.setI w).fb = s.fb := rfl
@[simp] theorem State.setI_keypad (s : State) (w : Word) : (s.setI w).keypad = s.keypad := rfl
@[simp] theorem State.setI_trace (s : State) (w : Word) : (s.setI w).trace = s.trace := rfl
@[simp] theorem State.setI_tpos (s : State) (w : Word) : (s.setI w).tpos = s.tpos := rfl
@[simp] theorem State.setI_fault (s : State) (w : Word) : (s.setI w).fault = s.fault := rfl
@[simp] theorem State.setI_rom (s : State) (w : Word) : (s.setI w).rom = s.rom := rfl
@[simp] theorem State.setI_cfg (s : State) (w : Word) : (s.setI w).cfg = s.cfg := rfl
@[simp] theorem State.setI_rngIndex (s : State) (w : Word) : (s.setI w).rngIndex = s.rngIndex := rfl
@[simp] theorem State.setI_getV (s : State) (w : Word) (r : Reg) :
    (s.setI w).getV r = s.getV r := rfl
@[simp] theorem State.setI_readByte (s : State) (w : Word) (c : Nat) :
    (s.setI w).readByte c = s.readByte c := rfl
@[simp] theorem State.setI_nextDraw (s : State) (w : Word) :
    (s.setI w).nextDraw = s.nextDraw := rfl

/-! ## setPc -/

@[simp] theorem State.setPc_mem (s : State) (w : Word) : (s.setPc w).mem = s.mem := rfl
@[simp] theorem State.setPc_v (s : State) (w : Word) : (s.setPc w).v = s.v := rfl
@[simp] theorem State.setPc_i (s : State) (w : Word) : (s.setPc w).i = s.i := rfl
@[simp] theorem State.setPc_pc (s : State) (w : Word) : (s.setPc w).pc = w := rfl
@[simp] theorem State.setPc_sp (s : State) (w : Word) : (s.setPc w).sp = s.sp := rfl
@[simp] theorem State.setPc_stack (s : State) (w : Word) : (s.setPc w).stack = s.stack := rfl
@[simp] theorem State.setPc_dt (s : State) (w : Word) : (s.setPc w).dt = s.dt := rfl
@[simp] theorem State.setPc_st (s : State) (w : Word) : (s.setPc w).st = s.st := rfl
@[simp] theorem State.setPc_fb (s : State) (w : Word) : (s.setPc w).fb = s.fb := rfl
@[simp] theorem State.setPc_keypad (s : State) (w : Word) : (s.setPc w).keypad = s.keypad := rfl
@[simp] theorem State.setPc_trace (s : State) (w : Word) : (s.setPc w).trace = s.trace := rfl
@[simp] theorem State.setPc_tpos (s : State) (w : Word) : (s.setPc w).tpos = s.tpos := rfl
@[simp] theorem State.setPc_fault (s : State) (w : Word) : (s.setPc w).fault = s.fault := rfl
@[simp] theorem State.setPc_rom (s : State) (w : Word) : (s.setPc w).rom = s.rom := rfl
@[simp] theorem State.setPc_cfg (s : State) (w : Word) : (s.setPc w).cfg = s.cfg := rfl
@[simp] theorem State.setPc_rngIndex (s : State) (w : Word) :
    (s.setPc w).rngIndex = s.rngIndex := rfl
@[simp] theorem State.setPc_getV (s : State) (w : Word) (r : Reg) :
    (s.setPc w).getV r = s.getV r := rfl
@[simp] theorem State.setPc_readByte (s : State) (w : Word) (c : Nat) :
    (s.setPc w).readByte c = s.readByte c := rfl
@[simp] theorem State.setPc_nextDraw (s : State) (w : Word) :
    (s.setPc w).nextDraw = s.nextDraw := rfl

/-! ## advancePc -/

@[simp] theorem State.advancePc_mem (s : State) : s.advancePc.mem = s.mem := rfl
@[simp] theorem State.advancePc_v (s : State) : s.advancePc.v = s.v := rfl
@[simp] theorem State.advancePc_i (s : State) : s.advancePc.i = s.i := rfl
@[simp] theorem State.advancePc_pc (s : State) : s.advancePc.pc = s.pc + 2 := rfl
@[simp] theorem State.advancePc_sp (s : State) : s.advancePc.sp = s.sp := rfl
@[simp] theorem State.advancePc_stack (s : State) : s.advancePc.stack = s.stack := rfl
@[simp] theorem State.advancePc_dt (s : State) : s.advancePc.dt = s.dt := rfl
@[simp] theorem State.advancePc_st (s : State) : s.advancePc.st = s.st := rfl
@[simp] theorem State.advancePc_fb (s : State) : s.advancePc.fb = s.fb := rfl
@[simp] theorem State.advancePc_keypad (s : State) : s.advancePc.keypad = s.keypad := rfl
@[simp] theorem State.advancePc_trace (s : State) : s.advancePc.trace = s.trace := rfl
@[simp] theorem State.advancePc_tpos (s : State) : s.advancePc.tpos = s.tpos := rfl
@[simp] theorem State.advancePc_fault (s : State) : s.advancePc.fault = s.fault := rfl
@[simp] theorem State.advancePc_rom (s : State) : s.advancePc.rom = s.rom := rfl
@[simp] theorem State.advancePc_cfg (s : State) : s.advancePc.cfg = s.cfg := rfl
@[simp] theorem State.advancePc_rngIndex (s : State) : s.advancePc.rngIndex = s.rngIndex := rfl
@[simp] theorem State.advancePc_getV (s : State)  (r : Reg) :
    s.advancePc.getV r = s.getV r := rfl
@[simp] theorem State.advancePc_readByte (s : State)  (c : Nat) :
    s.advancePc.readByte c = s.readByte c := rfl
@[simp] theorem State.advancePc_nextDraw (s : State)  :
    s.advancePc.nextDraw = s.nextDraw := rfl

/-! ## rollBackPc -/

@[simp] theorem State.rollBackPc_mem (s : State) : s.rollBackPc.mem = s.mem := rfl
@[simp] theorem State.rollBackPc_v (s : State) : s.rollBackPc.v = s.v := rfl
@[simp] theorem State.rollBackPc_i (s : State) : s.rollBackPc.i = s.i := rfl
@[simp] theorem State.rollBackPc_pc (s : State) : s.rollBackPc.pc = s.pc - 2 := rfl
@[simp] theorem State.rollBackPc_sp (s : State) : s.rollBackPc.sp = s.sp := rfl
@[simp] theorem State.rollBackPc_stack (s : State) : s.rollBackPc.stack = s.stack := rfl
@[simp] theorem State.rollBackPc_dt (s : State) : s.rollBackPc.dt = s.dt := rfl
@[simp] theorem State.rollBackPc_st (s : State) : s.rollBackPc.st = s.st := rfl
@[simp] theorem State.rollBackPc_fb (s : State) : s.rollBackPc.fb = s.fb := rfl
@[simp] theorem State.rollBackPc_keypad (s : State) : s.rollBackPc.keypad = s.keypad := rfl
@[simp] theorem State.rollBackPc_trace (s : State) : s.rollBackPc.trace = s.trace := rfl
@[simp] theorem State.rollBackPc_tpos (s : State) : s.rollBackPc.tpos = s.tpos := rfl
@[simp] theorem State.rollBackPc_fault (s : State) : s.rollBackPc.fault = s.fault := rfl
@[simp] theorem State.rollBackPc_rom (s : State) : s.rollBackPc.rom = s.rom := rfl
@[simp] theorem State.rollBackPc_cfg (s : State) : s.rollBackPc.cfg = s.cfg := rfl
@[simp] theorem State.rollBackPc_rngIndex (s : State) : s.rollBackPc.rngIndex = s.rngIndex := rfl
@[simp] theorem State.rollBackPc_getV (s : State)  (r : Reg) :
    s.rollBackPc.getV r = s.getV r := rfl
@[simp] theorem State.rollBackPc_readByte (s : State)  (c : Nat) :
    s.rollBackPc.readByte c = s.readByte c := rfl
@[simp] theorem State.rollBackPc_nextDraw (s : State)  :
    s.rollBackPc.nextDraw = s.nextDraw := rfl

/-! ## setSp -/

@[simp] theorem State.setSp_mem (s : State) (b : Byte) : (s.setSp b).mem = s.mem := rfl
@[simp] theorem State.setSp_v (s : State) (b : Byte) : (s.setSp b).v = s.v := rfl
@[simp] theorem State.setSp_i (s : State) (b : Byte) : (s.setSp b).i = s.i := rfl
@[simp] theorem State.setSp_pc (s : State) (b : Byte) : (s.setSp b).pc = s.pc := rfl
@[simp] theorem State.setSp_sp (s : State) (b : Byte) : (s.setSp b).sp = b := rfl
@[simp] theorem State.setSp_stack (s : State) (b : Byte) : (s.setSp b).stack = s.stack := rfl
@[simp] theorem State.setSp_dt (s : State) (b : Byte) : (s.setSp b).dt = s.dt := rfl
@[simp] theorem State.setSp_st (s : State) (b : Byte) : (s.setSp b).st = s.st := rfl
@[simp] theorem State.setSp_fb (s : State) (b : Byte) : (s.setSp b).fb = s.fb := rfl
@[simp] theorem State.setSp_keypad (s : State) (b : Byte) : (s.setSp b).keypad = s.keypad := rfl
@[simp] theorem State.setSp_trace (s : State) (b : Byte) : (s.setSp b).trace = s.trace := rfl
@[simp] theorem State.setSp_tpos (s : State) (b : Byte) : (s.setSp b).tpos = s.tpos := rfl
@[simp] theorem State.setSp_fault (s : State) (b : Byte) : (s.setSp b).fault = s.fault := rfl
@[simp] theorem State.setSp_rom (s : State) (b : Byte) : (s.setSp b).rom = s.rom := rfl
@[simp] theorem State.setSp_cfg (s : State) (b : Byte) : (s.setSp b).cfg = s.cfg := rfl
@[simp] theorem State.setSp_rngIndex (s : State) (b : Byte) :
    (s.setSp b).rngIndex = s.rngIndex := rfl
@[simp] theorem State.setSp_getV (s : State) (b : Byte) (r : Reg) :
    (s.setSp b).getV r = s.getV r := rfl
@[simp] theorem State.setSp_readByte (s : State) (b : Byte) (c : Nat) :
    (s.setSp b).readByte c = s.readByte c := rfl
@[simp] theorem State.setSp_nextDraw (s : State) (b : Byte) :
    (s.setSp b).nextDraw = s.nextDraw := rfl

/-! ## setDt -/

@[simp] theorem State.setDt_mem (s : State) (b : Byte) : (s.setDt b).mem = s.mem := rfl
@[simp] theorem State.setDt_v (s : State) (b : Byte) : (s.setDt b).v = s.v := rfl
@[simp] theorem State.setDt_i (s : State) (b : Byte) : (s.setDt b).i = s.i := rfl
@[simp] theorem State.setDt_pc (s : State) (b : Byte) : (s.setDt b).pc = s.pc := rfl
@[simp] theorem State.setDt_sp (s : State) (b : Byte) : (s.setDt b).sp = s.sp := rfl
@[simp] theorem State.setDt_stack (s : State) (b : Byte) : (s.setDt b).stack = s.stack := rfl
@[simp] theorem State.setDt_dt (s : State) (b : Byte) : (s.setDt b).dt = b := rfl
@[simp] theorem State.setDt_st (s : State) (b : Byte) : (s.setDt b).st = s.st := rfl
@[simp] theorem State.setDt_fb (s : State) (b : Byte) : (s.setDt b).fb = s.fb := rfl
@[simp] theorem State.setDt_keypad (s : State) (b : Byte) : (s.setDt b).keypad = s.keypad := rfl
@[simp] theorem State.setDt_trace (s : State) (b : Byte) : (s.setDt b).trace = s.trace := rfl
@[simp] theorem State.setDt_tpos (s : State) (b : Byte) : (s.setDt b).tpos = s.tpos := rfl
@[simp] theorem State.setDt_fault (s : State) (b : Byte) : (s.setDt b).fault = s.fault := rfl
@[simp] theorem State.setDt_rom (s : State) (b : Byte) : (s.setDt b).rom = s.rom := rfl
@[simp] theorem State.setDt_cfg (s : State) (b : Byte) : (s.setDt b).cfg = s.cfg := rfl
@[simp] theorem State.setDt_rngIndex (s : State) (b : Byte) :
    (s.setDt b).rngIndex = s.rngIndex := rfl
@[simp] theorem State.setDt_getV (s : State) (b : Byte) (r : Reg) :
    (s.setDt b).getV r = s.getV r := rfl
@[simp] theorem State.setDt_readByte (s : State) (b : Byte) (c : Nat) :
    (s.setDt b).readByte c = s.readByte c := rfl
@[simp] theorem State.setDt_nextDraw (s : State) (b : Byte) :
    (s.setDt b).nextDraw = s.nextDraw := rfl

/-! ## setSt -/

@[simp] theorem State.setSt_mem (s : State) (b : Byte) : (s.setSt b).mem = s.mem := rfl
@[simp] theorem State.setSt_v (s : State) (b : Byte) : (s.setSt b).v = s.v := rfl
@[simp] theorem State.setSt_i (s : State) (b : Byte) : (s.setSt b).i = s.i := rfl
@[simp] theorem State.setSt_pc (s : State) (b : Byte) : (s.setSt b).pc = s.pc := rfl
@[simp] theorem State.setSt_sp (s : State) (b : Byte) : (s.setSt b).sp = s.sp := rfl
@[simp] theorem State.setSt_stack (s : State) (b : Byte) : (s.setSt b).stack = s.stack := rfl
@[simp] theorem State.setSt_dt (s : State) (b : Byte) : (s.setSt b).dt = s.dt := rfl
@[simp] theorem State.setSt_st (s : State) (b : Byte) : (s.setSt b).st = b := rfl
@[simp] theorem State.setSt_fb (s : State) (b : Byte) : (s.setSt b).fb = s.fb := rfl
@[simp] theorem State.setSt_keypad (s : State) (b : Byte) : (s.setSt b).keypad = s.keypad := rfl
@[simp] theorem State.setSt_trace (s : State) (b : Byte) : (s.setSt b).trace = s.trace := rfl
@[simp] theorem State.setSt_tpos (s : State) (b : Byte) : (s.setSt b).tpos = s.tpos := rfl
@[simp] theorem State.setSt_fault (s : State) (b : Byte) : (s.setSt b).fault = s.fault := rfl
@[simp] theorem State.setSt_rom (s : State) (b : Byte) : (s.setSt b).rom = s.rom := rfl
@[simp] theorem State.setSt_cfg (s : State) (b : Byte) : (s.setSt b).cfg = s.cfg := rfl
@[simp] theorem State.setSt_rngIndex (s : State) (b : Byte) :
    (s.setSt b).rngIndex = s.rngIndex := rfl
@[simp] theorem State.setSt_getV (s : State) (b : Byte) (r : Reg) :
    (s.setSt b).getV r = s.getV r := rfl
@[simp] theorem State.setSt_readByte (s : State) (b : Byte) (c : Nat) :
    (s.setSt b).readByte c = s.readByte c := rfl
@[simp] theorem State.setSt_nextDraw (s : State) (b : Byte) :
    (s.setSt b).nextDraw = s.nextDraw := rfl

/-! ## setFb -/

@[simp] theorem State.setFb_mem (s : State) (fb : Framebuffer) : (s.setFb fb).mem = s.mem := rfl
@[simp] theorem State.setFb_v (s : State) (fb : Framebuffer) : (s.setFb fb).v = s.v := rfl
@[simp] theorem State.setFb_i (s : State) (fb : Framebuffer) : (s.setFb fb).i = s.i := rfl
@[simp] theorem State.setFb_pc (s : State) (fb : Framebuffer) : (s.setFb fb).pc = s.pc := rfl
@[simp] theorem State.setFb_sp (s : State) (fb : Framebuffer) : (s.setFb fb).sp = s.sp := rfl
@[simp] theorem State.setFb_stack (s : State) (fb : Framebuffer) :
    (s.setFb fb).stack = s.stack := rfl
@[simp] theorem State.setFb_dt (s : State) (fb : Framebuffer) : (s.setFb fb).dt = s.dt := rfl
@[simp] theorem State.setFb_st (s : State) (fb : Framebuffer) : (s.setFb fb).st = s.st := rfl
@[simp] theorem State.setFb_fb (s : State) (fb : Framebuffer) : (s.setFb fb).fb = fb := rfl
@[simp] theorem State.setFb_keypad (s : State) (fb : Framebuffer) :
    (s.setFb fb).keypad = s.keypad := rfl
@[simp] theorem State.setFb_trace (s : State) (fb : Framebuffer) :
    (s.setFb fb).trace = s.trace := rfl
@[simp] theorem State.setFb_tpos (s : State) (fb : Framebuffer) : (s.setFb fb).tpos = s.tpos := rfl
@[simp] theorem State.setFb_fault (s : State) (fb : Framebuffer) :
    (s.setFb fb).fault = s.fault := rfl
@[simp] theorem State.setFb_rom (s : State) (fb : Framebuffer) : (s.setFb fb).rom = s.rom := rfl
@[simp] theorem State.setFb_cfg (s : State) (fb : Framebuffer) : (s.setFb fb).cfg = s.cfg := rfl
@[simp] theorem State.setFb_rngIndex (s : State) (fb : Framebuffer) :
    (s.setFb fb).rngIndex = s.rngIndex := rfl
@[simp] theorem State.setFb_getV (s : State) (fb : Framebuffer) (r : Reg) :
    (s.setFb fb).getV r = s.getV r := rfl
@[simp] theorem State.setFb_readByte (s : State) (fb : Framebuffer) (c : Nat) :
    (s.setFb fb).readByte c = s.readByte c := rfl
@[simp] theorem State.setFb_nextDraw (s : State) (fb : Framebuffer) :
    (s.setFb fb).nextDraw = s.nextDraw := rfl

/-! ## setKeypad -/

@[simp] theorem State.setKeypad_mem (s : State) (k : Reg) (p : Bool) :
    (s.setKeypad k p).mem = s.mem := rfl
@[simp] theorem State.setKeypad_v (s : State) (k : Reg) (p : Bool) :
    (s.setKeypad k p).v = s.v := rfl
@[simp] theorem State.setKeypad_i (s : State) (k : Reg) (p : Bool) :
    (s.setKeypad k p).i = s.i := rfl
@[simp] theorem State.setKeypad_pc (s : State) (k : Reg) (p : Bool) :
    (s.setKeypad k p).pc = s.pc := rfl
@[simp] theorem State.setKeypad_sp (s : State) (k : Reg) (p : Bool) :
    (s.setKeypad k p).sp = s.sp := rfl
@[simp] theorem State.setKeypad_stack (s : State) (k : Reg) (p : Bool) :
    (s.setKeypad k p).stack = s.stack := rfl
@[simp] theorem State.setKeypad_dt (s : State) (k : Reg) (p : Bool) :
    (s.setKeypad k p).dt = s.dt := rfl
@[simp] theorem State.setKeypad_st (s : State) (k : Reg) (p : Bool) :
    (s.setKeypad k p).st = s.st := rfl
@[simp] theorem State.setKeypad_fb (s : State) (k : Reg) (p : Bool) :
    (s.setKeypad k p).fb = s.fb := rfl
@[simp] theorem State.setKeypad_keypad (s : State) (k : Reg) (p : Bool) :
    (s.setKeypad k p).keypad = s.keypad.set k p := rfl
@[simp] theorem State.setKeypad_trace (s : State) (k : Reg) (p : Bool) :
    (s.setKeypad k p).trace = s.trace := rfl
@[simp] theorem State.setKeypad_tpos (s : State) (k : Reg) (p : Bool) :
    (s.setKeypad k p).tpos = s.tpos := rfl
@[simp] theorem State.setKeypad_fault (s : State) (k : Reg) (p : Bool) :
    (s.setKeypad k p).fault = s.fault := rfl
@[simp] theorem State.setKeypad_rom (s : State) (k : Reg) (p : Bool) :
    (s.setKeypad k p).rom = s.rom := rfl
@[simp] theorem State.setKeypad_cfg (s : State) (k : Reg) (p : Bool) :
    (s.setKeypad k p).cfg = s.cfg := rfl
@[simp] theorem State.setKeypad_rngIndex (s : State) (k : Reg) (p : Bool) :
    (s.setKeypad k p).rngIndex = s.rngIndex := rfl
@[simp] theorem State.setKeypad_getV (s : State) (k : Reg) (p : Bool) (r : Reg) :
    (s.setKeypad k p).getV r = s.getV r := rfl
@[simp] theorem State.setKeypad_readByte (s : State) (k : Reg) (p : Bool) (c : Nat) :
    (s.setKeypad k p).readByte c = s.readByte c := rfl
@[simp] theorem State.setKeypad_nextDraw (s : State) (k : Reg) (p : Bool) :
    (s.setKeypad k p).nextDraw = s.nextDraw := rfl

/-! ## setMem -/

@[simp] theorem State.setMem_mem (s : State) (m : Memory) : (s.setMem m).mem = m := rfl
@[simp] theorem State.setMem_v (s : State) (m : Memory) : (s.setMem m).v = s.v := rfl
@[simp] theorem State.setMem_i (s : State) (m : Memory) : (s.setMem m).i = s.i := rfl
@[simp] theorem State.setMem_pc (s : State) (m : Memory) : (s.setMem m).pc = s.pc := rfl
@[simp] theorem State.setMem_sp (s : State) (m : Memory) : (s.setMem m).sp = s.sp := rfl
@[simp] theorem State.setMem_stack (s : State) (m : Memory) : (s.setMem m).stack = s.stack := rfl
@[simp] theorem State.setMem_dt (s : State) (m : Memory) : (s.setMem m).dt = s.dt := rfl
@[simp] theorem State.setMem_st (s : State) (m : Memory) : (s.setMem m).st = s.st := rfl
@[simp] theorem State.setMem_fb (s : State) (m : Memory) : (s.setMem m).fb = s.fb := rfl
@[simp] theorem State.setMem_keypad (s : State) (m : Memory) : (s.setMem m).keypad = s.keypad := rfl
@[simp] theorem State.setMem_trace (s : State) (m : Memory) : (s.setMem m).trace = s.trace := rfl
@[simp] theorem State.setMem_tpos (s : State) (m : Memory) : (s.setMem m).tpos = s.tpos := rfl
@[simp] theorem State.setMem_fault (s : State) (m : Memory) : (s.setMem m).fault = s.fault := rfl
@[simp] theorem State.setMem_rom (s : State) (m : Memory) : (s.setMem m).rom = s.rom := rfl
@[simp] theorem State.setMem_cfg (s : State) (m : Memory) : (s.setMem m).cfg = s.cfg := rfl
@[simp] theorem State.setMem_rngIndex (s : State) (m : Memory) :
    (s.setMem m).rngIndex = s.rngIndex := rfl
@[simp] theorem State.setMem_getV (s : State) (m : Memory) (r : Reg) :
    (s.setMem m).getV r = s.getV r := rfl
@[simp] theorem State.setMem_nextDraw (s : State) (m : Memory) :
    (s.setMem m).nextDraw = s.nextDraw := rfl

/-! ## storeBytes -/

@[simp] theorem State.storeBytes_mem (s : State) (a : Nat) (bs : List Byte) :
    (s.storeBytes a bs).mem = memoryWriteBytes s.cfg.font s.mem a bs := rfl
@[simp] theorem State.storeBytes_v (s : State) (a : Nat) (bs : List Byte) :
    (s.storeBytes a bs).v = s.v := rfl
@[simp] theorem State.storeBytes_i (s : State) (a : Nat) (bs : List Byte) :
    (s.storeBytes a bs).i = s.i := rfl
@[simp] theorem State.storeBytes_pc (s : State) (a : Nat) (bs : List Byte) :
    (s.storeBytes a bs).pc = s.pc := rfl
@[simp] theorem State.storeBytes_sp (s : State) (a : Nat) (bs : List Byte) :
    (s.storeBytes a bs).sp = s.sp := rfl
@[simp] theorem State.storeBytes_stack (s : State) (a : Nat) (bs : List Byte) :
    (s.storeBytes a bs).stack = s.stack := rfl
@[simp] theorem State.storeBytes_dt (s : State) (a : Nat) (bs : List Byte) :
    (s.storeBytes a bs).dt = s.dt := rfl
@[simp] theorem State.storeBytes_st (s : State) (a : Nat) (bs : List Byte) :
    (s.storeBytes a bs).st = s.st := rfl
@[simp] theorem State.storeBytes_fb (s : State) (a : Nat) (bs : List Byte) :
    (s.storeBytes a bs).fb = s.fb := rfl
@[simp] theorem State.storeBytes_keypad (s : State) (a : Nat) (bs : List Byte) :
    (s.storeBytes a bs).keypad = s.keypad := rfl
@[simp] theorem State.storeBytes_trace (s : State) (a : Nat) (bs : List Byte) :
    (s.storeBytes a bs).trace = s.trace := rfl
@[simp] theorem State.storeBytes_tpos (s : State) (a : Nat) (bs : List Byte) :
    (s.storeBytes a bs).tpos = s.tpos := rfl
@[simp] theorem State.storeBytes_fault (s : State) (a : Nat) (bs : List Byte) :
    (s.storeBytes a bs).fault = s.fault := rfl
@[simp] theorem State.storeBytes_rom (s : State) (a : Nat) (bs : List Byte) :
    (s.storeBytes a bs).rom = s.rom := rfl
@[simp] theorem State.storeBytes_cfg (s : State) (a : Nat) (bs : List Byte) :
    (s.storeBytes a bs).cfg = s.cfg := rfl
@[simp] theorem State.storeBytes_rngIndex (s : State) (a : Nat) (bs : List Byte) :
    (s.storeBytes a bs).rngIndex = s.rngIndex := rfl
@[simp] theorem State.storeBytes_getV (s : State) (a : Nat) (bs : List Byte) (r : Reg) :
    (s.storeBytes a bs).getV r = s.getV r := rfl
@[simp] theorem State.storeBytes_nextDraw (s : State) (a : Nat) (bs : List Byte) :
    (s.storeBytes a bs).nextDraw = s.nextDraw := rfl

/-! ## takeDraw -/

@[simp] theorem State.takeDraw_mem (s : State) : s.takeDraw.mem = s.mem := rfl
@[simp] theorem State.takeDraw_v (s : State) : s.takeDraw.v = s.v := rfl
@[simp] theorem State.takeDraw_i (s : State) : s.takeDraw.i = s.i := rfl
@[simp] theorem State.takeDraw_pc (s : State) : s.takeDraw.pc = s.pc := rfl
@[simp] theorem State.takeDraw_sp (s : State) : s.takeDraw.sp = s.sp := rfl
@[simp] theorem State.takeDraw_stack (s : State) : s.takeDraw.stack = s.stack := rfl
@[simp] theorem State.takeDraw_dt (s : State) : s.takeDraw.dt = s.dt := rfl
@[simp] theorem State.takeDraw_st (s : State) : s.takeDraw.st = s.st := rfl
@[simp] theorem State.takeDraw_fb (s : State) : s.takeDraw.fb = s.fb := rfl
@[simp] theorem State.takeDraw_keypad (s : State) : s.takeDraw.keypad = s.keypad := rfl
@[simp] theorem State.takeDraw_trace (s : State) : s.takeDraw.trace = s.trace := rfl
@[simp] theorem State.takeDraw_tpos (s : State) : s.takeDraw.tpos = s.tpos := rfl
@[simp] theorem State.takeDraw_fault (s : State) : s.takeDraw.fault = s.fault := rfl
@[simp] theorem State.takeDraw_rom (s : State) : s.takeDraw.rom = s.rom := rfl
@[simp] theorem State.takeDraw_cfg (s : State) : s.takeDraw.cfg = s.cfg := rfl
@[simp] theorem State.takeDraw_rngIndex (s : State) : s.takeDraw.rngIndex = s.rngIndex + 1 := rfl
@[simp] theorem State.takeDraw_getV (s : State)  (r : Reg) :
    s.takeDraw.getV r = s.getV r := rfl
@[simp] theorem State.takeDraw_readByte (s : State)  (c : Nat) :
    s.takeDraw.readByte c = s.readByte c := rfl

/-! ## pushed -/

@[simp] theorem State.pushed_mem (s : State) (w : Word) : (s.pushed w).mem = s.mem := rfl
@[simp] theorem State.pushed_v (s : State) (w : Word) : (s.pushed w).v = s.v := rfl
@[simp] theorem State.pushed_i (s : State) (w : Word) : (s.pushed w).i = s.i := rfl
@[simp] theorem State.pushed_pc (s : State) (w : Word) : (s.pushed w).pc = s.pc := rfl
@[simp] theorem State.pushed_sp (s : State) (w : Word) : (s.pushed w).sp = s.sp - 1 := rfl
@[simp] theorem State.pushed_stack (s : State) (w : Word) :
    (s.pushed w).stack = s.stack.setIfInBounds s.sp.toNat w := rfl
@[simp] theorem State.pushed_dt (s : State) (w : Word) : (s.pushed w).dt = s.dt := rfl
@[simp] theorem State.pushed_st (s : State) (w : Word) : (s.pushed w).st = s.st := rfl
@[simp] theorem State.pushed_fb (s : State) (w : Word) : (s.pushed w).fb = s.fb := rfl
@[simp] theorem State.pushed_keypad (s : State) (w : Word) : (s.pushed w).keypad = s.keypad := rfl
@[simp] theorem State.pushed_trace (s : State) (w : Word) : (s.pushed w).trace = s.trace := rfl
@[simp] theorem State.pushed_tpos (s : State) (w : Word) : (s.pushed w).tpos = s.tpos := rfl
@[simp] theorem State.pushed_fault (s : State) (w : Word) : (s.pushed w).fault = s.fault := rfl
@[simp] theorem State.pushed_rom (s : State) (w : Word) : (s.pushed w).rom = s.rom := rfl
@[simp] theorem State.pushed_cfg (s : State) (w : Word) : (s.pushed w).cfg = s.cfg := rfl
@[simp] theorem State.pushed_rngIndex (s : State) (w : Word) :
    (s.pushed w).rngIndex = s.rngIndex := rfl
@[simp] theorem State.pushed_getV (s : State) (w : Word) (r : Reg) :
    (s.pushed w).getV r = s.getV r := rfl
@[simp] theorem State.pushed_readByte (s : State) (w : Word) (c : Nat) :
    (s.pushed w).readByte c = s.readByte c := rfl
@[simp] theorem State.pushed_nextDraw (s : State) (w : Word) :
    (s.pushed w).nextDraw = s.nextDraw := rfl

/-! ## traceAppend -/

@[simp] theorem State.traceAppend_mem (s : State) (a w : Word) (m : Mnemonic) :
    (s.traceAppend a w m).mem = s.mem := rfl
@[simp] theorem State.traceAppend_v (s : State) (a w : Word) (m : Mnemonic) :
    (s.traceAppend a w m).v = s.v := rfl
@[simp] theorem State.traceAppend_i (s : State) (a w : Word) (m : Mnemonic) :
    (s.traceAppend a w m).i = s.i := rfl
@[simp] theorem State.traceAppend_pc (s : State) (a w : Word) (m : Mnemonic) :
    (s.traceAppend a w m).pc = s.pc := rfl
@[simp] theorem State.traceAppend_sp (s : State) (a w : Word) (m : Mnemonic) :
    (s.traceAppend a w m).sp = s.sp := rfl
@[simp] theorem State.traceAppend_stack (s : State) (a w : Word) (m : Mnemonic) :
    (s.traceAppend a w m).stack = s.stack := rfl
@[simp] theorem State.traceAppend_dt (s : State) (a w : Word) (m : Mnemonic) :
    (s.traceAppend a w m).dt = s.dt := rfl
@[simp] theorem State.traceAppend_st (s : State) (a w : Word) (m : Mnemonic) :
    (s.traceAppend a w m).st = s.st := rfl
@[simp] theorem State.traceAppend_fb (s : State) (a w : Word) (m : Mnemonic) :
    (s.traceAppend a w m).fb = s.fb := rfl
@[simp] theorem State.traceAppend_keypad (s : State) (a w : Word) (m : Mnemonic) :
    (s.traceAppend a w m).keypad = s.keypad := rfl
@[simp] theorem State.traceAppend_trace (s : State) (a w : Word) (m : Mnemonic) :
    (s.traceAppend a w m).trace = s.trace.set s.tpos { addr := a, op := w, mn := m } := rfl
@[simp] theorem State.traceAppend_tpos (s : State) (a w : Word) (m : Mnemonic) :
    (s.traceAppend a w m).tpos = s.tpos + 1 := rfl
@[simp] theorem State.traceAppend_fault (s : State) (a w : Word) (m : Mnemonic) :
    (s.traceAppend a w m).fault = s.fault := rfl
@[simp] theorem State.traceAppend_rom (s : State) (a w : Word) (m : Mnemonic) :
    (s.traceAppend a w m).rom = s.rom := rfl
@[simp] theorem State.traceAppend_cfg (s : State) (a w : Word) (m : Mnemonic) :
    (s.traceAppend a w m).cfg = s.cfg := rfl
@[simp] theorem State.traceAppend_rngIndex (s : State) (a w : Word) (m : Mnemonic) :
    (s.traceAppend a w m).rngIndex = s.rngIndex := rfl
@[simp] theorem State.traceAppend_getV (s : State) (a w : Word) (m : Mnemonic) (r : Reg) :
    (s.traceAppend a w m).getV r = s.getV r := rfl
@[simp] theorem State.traceAppend_readByte (s : State) (a w : Word) (m : Mnemonic) (c : Nat) :
    (s.traceAppend a w m).readByte c = s.readByte c := rfl
@[simp] theorem State.traceAppend_nextDraw (s : State) (a w : Word) (m : Mnemonic) :
    (s.traceAppend a w m).nextDraw = s.nextDraw := rfl

/-! ## takeFault -/

@[simp] theorem State.takeFault_mem (s : State) (f : Fault) (op : Word) :
    (s.takeFault f op).mem = s.mem := rfl
@[simp] theorem State.takeFault_v (s : State) (f : Fault) (op : Word) :
    (s.takeFault f op).v = s.v := rfl
@[simp] theorem State.takeFault_i (s : State) (f : Fault) (op : Word) :
    (s.takeFault f op).i = s.i := rfl
@[simp] theorem State.takeFault_pc (s : State) (f : Fault) (op : Word) :
    (s.takeFault f op).pc = s.pc := rfl
@[simp] theorem State.takeFault_sp (s : State) (f : Fault) (op : Word) :
    (s.takeFault f op).sp = s.sp := rfl
@[simp] theorem State.takeFault_stack (s : State) (f : Fault) (op : Word) :
    (s.takeFault f op).stack = s.stack := rfl
@[simp] theorem State.takeFault_dt (s : State) (f : Fault) (op : Word) :
    (s.takeFault f op).dt = s.dt := rfl
@[simp] theorem State.takeFault_st (s : State) (f : Fault) (op : Word) :
    (s.takeFault f op).st = s.st := rfl
@[simp] theorem State.takeFault_fb (s : State) (f : Fault) (op : Word) :
    (s.takeFault f op).fb = s.fb := rfl
@[simp] theorem State.takeFault_keypad (s : State) (f : Fault) (op : Word) :
    (s.takeFault f op).keypad = s.keypad := rfl
@[simp] theorem State.takeFault_trace (s : State) (f : Fault) (op : Word) :
    (s.takeFault f op).trace = s.trace := rfl
@[simp] theorem State.takeFault_tpos (s : State) (f : Fault) (op : Word) :
    (s.takeFault f op).tpos = s.tpos := rfl
@[simp] theorem State.takeFault_fault (s : State) (f : Fault) (op : Word) :
    (s.takeFault f op).fault = { halted := true, cause := f.cause, addr := s.pc, op := op, info := f.info } := rfl
@[simp] theorem State.takeFault_rom (s : State) (f : Fault) (op : Word) :
    (s.takeFault f op).rom = s.rom := rfl
@[simp] theorem State.takeFault_cfg (s : State) (f : Fault) (op : Word) :
    (s.takeFault f op).cfg = s.cfg := rfl
@[simp] theorem State.takeFault_rngIndex (s : State) (f : Fault) (op : Word) :
    (s.takeFault f op).rngIndex = s.rngIndex := rfl
@[simp] theorem State.takeFault_getV (s : State) (f : Fault) (op : Word) (r : Reg) :
    (s.takeFault f op).getV r = s.getV r := rfl
@[simp] theorem State.takeFault_readByte (s : State) (f : Fault) (op : Word) (c : Nat) :
    (s.takeFault f op).readByte c = s.readByte c := rfl
@[simp] theorem State.takeFault_nextDraw (s : State) (f : Fault) (op : Word) :
    (s.takeFault f op).nextDraw = s.nextDraw := rfl

/-! ## Reading a register after a write -/

@[simp] theorem State.setV_getV_self (s : State) (x : Reg) (b : Byte) : (s.setV x b).getV x = b := by
  simp [State.getV]

theorem State.setV_getV_ne (s : State) (b : Byte) {x r : Reg} (h : r ≠ x) :
    (s.setV x b).getV r = s.getV r := by
  have hv : (x : Nat) ≠ r := fun e => h (Fin.ext e.symm)
  simp [State.getV, hv]

theorem State.setV_getV (s : State) (x r : Reg) (b : Byte) :
    (s.setV x b).getV r = if r = x then b else s.getV r := by
  split
  · next h => subst h; simp
  · next h => exact State.setV_getV_ne s b h

@[simp] theorem State.setVs_getV (s : State) (vs : Vector Byte 16) (r : Reg) :
    (s.setVs vs).getV r = vs[r] := rfl

/-! ## Conditional skips and flag writes -/

@[simp] theorem State.skipIf_mem (s : State) (c : Bool) :
    (s.skipIf c).mem = s.mem := by
  cases c <;> rfl
@[simp] theorem State.skipIf_v (s : State) (c : Bool) :
    (s.skipIf c).v = s.v := by
  cases c <;> rfl
@[simp] theorem State.skipIf_i (s : State) (c : Bool) :
    (s.skipIf c).i = s.i := by
  cases c <;> rfl
@[simp] theorem State.skipIf_pc (s : State) (c : Bool) :
    (s.skipIf c).pc = if c then s.pc + 2 else s.pc := by
  cases c <;> rfl
@[simp] theorem State.skipIf_sp (s : State) (c : Bool) :
    (s.skipIf c).sp = s.sp := by
  cases c <;> rfl
@[simp] theorem State.skipIf_stack (s : State) (c : Bool) :
    (s.skipIf c).stack = s.stack := by
  cases c <;> rfl
@[simp] theorem State.skipIf_dt (s : State) (c : Bool) :
    (s.skipIf c).dt = s.dt := by
  cases c <;> rfl
@[simp] theorem State.skipIf_st (s : State) (c : Bool) :
    (s.skipIf c).st = s.st := by
  cases c <;> rfl
@[simp] theorem State.skipIf_fb (s : State) (c : Bool) :
    (s.skipIf c).fb = s.fb := by
  cases c <;> rfl
@[simp] theorem State.skipIf_keypad (s : State) (c : Bool) :
    (s.skipIf c).keypad = s.keypad := by
  cases c <;> rfl
@[simp] theorem State.skipIf_trace (s : State) (c : Bool) :
    (s.skipIf c).trace = s.trace := by
  cases c <;> rfl
@[simp] theorem State.skipIf_tpos (s : State) (c : Bool) :
    (s.skipIf c).tpos = s.tpos := by
  cases c <;> rfl
@[simp] theorem State.skipIf_fault (s : State) (c : Bool) :
    (s.skipIf c).fault = s.fault := by
  cases c <;> rfl
@[simp] theorem State.skipIf_rom (s : State) (c : Bool) :
    (s.skipIf c).rom = s.rom := by
  cases c <;> rfl
@[simp] theorem State.skipIf_cfg (s : State) (c : Bool) :
    (s.skipIf c).cfg = s.cfg := by
  cases c <;> rfl
@[simp] theorem State.skipIf_rngIndex (s : State) (c : Bool) :
    (s.skipIf c).rngIndex = s.rngIndex := by
  cases c <;> rfl
@[simp] theorem State.skipIf_getV (s : State) (c : Bool) (r : Reg) :
    (s.skipIf c).getV r = s.getV r := by
  cases c <;> rfl
@[simp] theorem State.skipIf_readByte (s : State) (c : Bool) (a : Nat) :
    (s.skipIf c).readByte a = s.readByte a := by
  cases c <;> rfl

@[simp] theorem State.writeResultAndFlag_mem (s : State) (x : Reg) (r : AluResult) :
    (s.writeResultAndFlag x r).mem = s.mem := by
  unfold State.writeResultAndFlag; split <;> rfl
@[simp] theorem State.writeResultAndFlag_i (s : State) (x : Reg) (r : AluResult) :
    (s.writeResultAndFlag x r).i = s.i := by
  unfold State.writeResultAndFlag; split <;> rfl
@[simp] theorem State.writeResultAndFlag_pc (s : State) (x : Reg) (r : AluResult) :
    (s.writeResultAndFlag x r).pc = s.pc := by
  unfold State.writeResultAndFlag; split <;> rfl
@[simp] theorem State.writeResultAndFlag_sp (s : State) (x : Reg) (r : AluResult) :
    (s.writeResultAndFlag x r).sp = s.sp := by
  unfold State.writeResultAndFlag; split <;> rfl
@[simp] theorem State.writeResultAndFlag_stack (s : State) (x : Reg) (r : AluResult) :
    (s.writeResultAndFlag x r).stack = s.stack := by
  unfold State.writeResultAndFlag; split <;> rfl
@[simp] theorem State.writeResultAndFlag_dt (s : State) (x : Reg) (r : AluResult) :
    (s.writeResultAndFlag x r).dt = s.dt := by
  unfold State.writeResultAndFlag; split <;> rfl
@[simp] theorem State.writeResultAndFlag_st (s : State) (x : Reg) (r : AluResult) :
    (s.writeResultAndFlag x r).st = s.st := by
  unfold State.writeResultAndFlag; split <;> rfl
@[simp] theorem State.writeResultAndFlag_fb (s : State) (x : Reg) (r : AluResult) :
    (s.writeResultAndFlag x r).fb = s.fb := by
  unfold State.writeResultAndFlag; split <;> rfl
@[simp] theorem State.writeResultAndFlag_keypad (s : State) (x : Reg) (r : AluResult) :
    (s.writeResultAndFlag x r).keypad = s.keypad := by
  unfold State.writeResultAndFlag; split <;> rfl
@[simp] theorem State.writeResultAndFlag_trace (s : State) (x : Reg) (r : AluResult) :
    (s.writeResultAndFlag x r).trace = s.trace := by
  unfold State.writeResultAndFlag; split <;> rfl
@[simp] theorem State.writeResultAndFlag_tpos (s : State) (x : Reg) (r : AluResult) :
    (s.writeResultAndFlag x r).tpos = s.tpos := by
  unfold State.writeResultAndFlag; split <;> rfl
@[simp] theorem State.writeResultAndFlag_fault (s : State) (x : Reg) (r : AluResult) :
    (s.writeResultAndFlag x r).fault = s.fault := by
  unfold State.writeResultAndFlag; split <;> rfl
@[simp] theorem State.writeResultAndFlag_rom (s : State) (x : Reg) (r : AluResult) :
    (s.writeResultAndFlag x r).rom = s.rom := by
  unfold State.writeResultAndFlag; split <;> rfl
@[simp] theorem State.writeResultAndFlag_cfg (s : State) (x : Reg) (r : AluResult) :
    (s.writeResultAndFlag x r).cfg = s.cfg := by
  unfold State.writeResultAndFlag; split <;> rfl
@[simp] theorem State.writeResultAndFlag_rngIndex (s : State) (x : Reg) (r : AluResult) :
    (s.writeResultAndFlag x r).rngIndex = s.rngIndex := by
  unfold State.writeResultAndFlag; split <;> rfl
@[simp] theorem State.writeResultAndFlag_readByte (s : State) (x : Reg) (r : AluResult) (a : Nat) :
    (s.writeResultAndFlag x r).readByte a = s.readByte a := by
  unfold State.writeResultAndFlag; split <;> rfl

/-- Everything the two writes do to the registers (R101): the flag in VF and the result in VX, and
when X = F the one `VF_ORDER` puts last. -/
theorem State.writeResultAndFlag_getV (s : State) (x r : Reg) (a : AluResult) :
    (s.writeResultAndFlag x a).getV r =
      if r = x ∧ (x ≠ Reg.vf ∨ s.cfg.vfOrder = .resultLast) then a.result
      else if r = Reg.vf then flagByte a.flag
      else s.getV r := by
  unfold State.writeResultAndFlag
  split <;> rename_i ho <;> simp only [State.setV_getV, ho] <;> by_cases h1 : r = x <;>
    by_cases h2 : r = Reg.vf <;> simp_all

end Sys2Proof.Machine
end

