-- ==== Sys2Proof/Laws/Ops.lean ====
section
/-! SUPPORT. What each shared operation of the machine can do, said once: range checks, memory
accesses, the call stack, the keypad and the handler wrapper. -/

namespace Sys2Proof.Machine

/-! ## Range checks and memory accesses (spec/20_memory.md R41) -/

/-- The range check passes exactly when every byte is below 4096, and else names the lowest that is
not. -/
theorem checkRange_eq (a n : Nat) :
    checkRange a n =
      if n = 0 ∨ a + n ≤ memSize then .ok () else .error (.memRange (max a memSize)) := by
  induction n generalizing a with
  | zero => simp [checkRange]
  | succ n ih =>
    unfold checkRange
    by_cases h : memSize ≤ a
    · rw [if_pos h, if_neg (by omega), Nat.max_eq_left h]
    · rw [if_neg h, ih]
      by_cases hn : n = 0 ∨ a + 1 + n ≤ memSize
      · rw [if_pos hn, if_pos (by omega)]
      · rw [if_neg hn, if_neg (by omega)]
        congr 2
        omega

theorem checkRange_ok {a n : Nat} (h : n = 0 ∨ a + n ≤ memSize) : checkRange a n = .ok () := by
  rw [checkRange_eq, if_pos h]

theorem checkRange_error {a n : Nat} (h0 : n ≠ 0) (h : memSize < a + n) :
    checkRange a n = .error (.memRange (max a memSize)) := by
  rw [checkRange_eq, if_neg (by omega)]

@[simp] theorem State.bytesAt_length (s : State) (a n : Nat) : (s.bytesAt a n).length = n := by
  induction n generalizing a with
  | zero => rfl
  | succ n ih => simp [State.bytesAt, ih]

theorem State.bytesAt_getElem (s : State) (a n k : Nat) (h : k < n) :
    (s.bytesAt a n)[k]'(by simpa using h) = s.readByte (a + k) := by
  induction n generalizing a k with
  | zero => omega
  | succ n ih =>
    cases k with
    | zero => rfl
    | succ k => simp [State.bytesAt, ih (a + 1) k (by omega), Nat.add_assoc, Nat.add_comm 1 k]

/-- Advancing PC changes no byte. -/
@[simp] theorem State.advancePc_bytesAt (s : State) (a n : Nat) :
    s.advancePc.bytesAt a n = s.bytesAt a n := by
  induction n generalizing a with
  | zero => rfl
  | succ n ih => simp [State.bytesAt, ih]

theorem State.memRead_ok (s : State) {a n : Nat} (h : n = 0 ∨ a + n ≤ memSize) :
    s.memRead a n = .ok (s.bytesAt a n) := by
  simp [State.memRead, checkRange_ok h]

theorem State.memRead_error (s : State) {a n : Nat} (h0 : n ≠ 0) (h : memSize < a + n) :
    s.memRead a n = .error (.memRange (max a memSize)) := by
  simp [State.memRead, checkRange_error h0 h]

theorem State.memWrite_ok (s : State) {a : Nat} {bs : List Byte}
    (h : bs.length = 0 ∨ a + bs.length ≤ memSize) : s.memWrite a bs = .ok (s.storeBytes a bs) := by
  simp [State.memWrite, checkRange_ok h]

theorem State.memWrite_error (s : State) {a : Nat} {bs : List Byte} (h0 : bs.length ≠ 0)
    (h : memSize < a + bs.length) : s.memWrite a bs = .error (.memRange (max a memSize)) := by
  simp [State.memWrite, checkRange_error h0 h]

/-- A byte read after bytes are stored. -/
theorem State.storeBytes_readByte (s : State) (a c : Nat) (bs : List Byte) :
    (s.storeBytes a bs).readByte c =
      if h : a ≤ c ∧ c < a + bs.length then bs[c - a] else s.readByte c :=
  memoryRead_writeBytes s.cfg.font bs s.mem a c

/-- Stored bytes below 4096 keep the canonical form. -/
theorem State.storeBytes_wf (s : State) {a : Nat} {bs : List Byte} (h : a + bs.length ≤ memSize)
    (hw : Memory.wf s.cfg.font s.mem = true) :
    Memory.wf (s.storeBytes a bs).cfg.font (s.storeBytes a bs).mem = true :=
  memoryWriteBytes_wf s.cfg.font bs s.mem a h hw

/-! ## The call stack (spec/10_state.md R24) -/

theorem State.push_ok (s : State) (w : Word) (h : s.sp.toNat < 16) :
    s.push w = .ok (s.pushed w) := by
  simp [State.push, h]

theorem State.push_error (s : State) (w : Word) (h : 16 ≤ s.sp.toNat) :
    s.push w = .error (.stackOverflow s.sp) := by
  simp [State.push, show ¬ s.sp.toNat < 16 by omega]

theorem State.pop_ok (s : State) (h : (s.sp + 1).toNat < 16) :
    s.pop = .ok (s.stack[(s.sp + 1).toNat], s.setSp (s.sp + 1)) := by
  unfold State.pop
  rw [dif_pos h]

theorem State.pop_error (s : State) (h : 16 ≤ (s.sp + 1).toNat) :
    s.pop = .error (.stackUnderflow s.sp) := by
  unfold State.pop
  rw [dif_neg (by omega)]

/-! ## The keypad (spec/44_keypad_timers.md R112, R115) -/

theorem State.keyAt_ok (s : State) (k : Byte) (h : k.toNat < 16) :
    s.keyAt k = .ok s.keypad[k.toNat] := by
  simp [State.keyAt, h]

theorem State.keyAt_error (s : State) (k : Byte) (h : 16 ≤ k.toNat) :
    s.keyAt k = .error (.keyRange k) := by
  simp [State.keyAt, show ¬ k.toNat < 16 by omega]

/-- No key is found exactly when none is pressed. -/
theorem State.lowestKey_none (s : State) : s.lowestKey = none ↔ ∀ k : Reg, s.keypad[k] = false := by
  unfold State.lowestKey
  rw [List.findIdx?_eq_none_iff]
  constructor
  · intro h k
    have := h (s.keypad[k]) (by simp [Vector.mem_toList_iff])
    simpa using this
  · intro h b hb
    rw [Vector.mem_toList_iff, Vector.mem_iff_getElem] at hb
    obtain ⟨k, hk, rfl⟩ := hb
    simpa using h ⟨k, hk⟩

/-- The key found is pressed and no lower one is. -/
theorem State.lowestKey_some (s : State) (n : Nat) :
    s.lowestKey = some n ↔
      ∃ k : Reg, k.val = n ∧ s.keypad[k] = true ∧ ∀ j : Reg, j < k → s.keypad[j] = false := by
  unfold State.lowestKey
  rw [List.findIdx?_eq_some_iff_getElem]
  constructor
  · rintro ⟨h, h1, h2⟩
    have hn : n < 16 := by simpa using h
    refine ⟨⟨n, hn⟩, rfl, by simpa using h1, fun j hj => ?_⟩
    have := h2 j.val hj
    simpa using this
  · rintro ⟨k, rfl, h1, h2⟩
    refine ⟨by simp, by simpa using h1, fun j hj => ?_⟩
    have := h2 ⟨j, by omega⟩ hj
    simpa using this

/-! ## The handler wrapper (spec/30_encoding.md R67, spec/60_exceptions.md R129) -/

theorem runHandler_ok {i : Instr} {h : Handler} {s t : State} (ht : h s.advancePc = .ok t) :
    runHandler i h s = .next (t.traceAppend s.pc (encode i) i.mnemonic) := by
  simp [runHandler, ht]

theorem runHandler_error {i : Instr} {h : Handler} {s : State} {f : Fault}
    (hf : h s.advancePc = .error f) : runHandler i h s = .next (s.takeFault f (encode i)) := by
  simp [runHandler, hf]

/-- Everything an instruction within a STEP can do: its handler gives a state, to which the trace
record is added, or raises a fault, which is recorded in the state the STEP began with. -/
theorem runHandler_cases (i : Instr) (h : Handler) (s : State) :
    (∃ t, h s.advancePc = .ok t ∧
      runHandler i h s = .next (t.traceAppend s.pc (encode i) i.mnemonic)) ∨
    (∃ f, h s.advancePc = .error f ∧ runHandler i h s = .next (s.takeFault f (encode i))) := by
  cases hh : h s.advancePc with
  | ok t => exact .inl ⟨t, rfl, runHandler_ok hh⟩
  | error f => exact .inr ⟨f, rfl, runHandler_error hh⟩

/-! ## Fetch (spec/30_encoding.md R68) -/

theorem State.fetchWord_ok (s : State) (h : s.pc.toNat + 1 < memSize) :
    s.fetchWord = .ok (wordOfBytes (s.readByte s.pc.toNat) (s.readByte (s.pc.toNat + 1))) := by
  simp [State.fetchWord, checkRange_ok (show 2 = 0 ∨ s.pc.toNat + 2 ≤ memSize by omega)]

theorem State.fetchWord_error (s : State) (h : memSize ≤ s.pc.toNat + 1) :
    s.fetchWord = .error (.memRange (max s.pc.toNat memSize)) := by
  simp [State.fetchWord, checkRange_error (n := 2) (by omega) (show memSize < s.pc.toNat + 2 by omega)]

end Sys2Proof.Machine
end

