-- ==== Sys2Proof/Laws/Operands.lean ====
section
/-! SUPPORT. What the operand forms give: register ranges, and the closed form of a drawn sprite
(spec/40_display.md R74 to R78). -/

namespace Sys2Proof.Machine

/-! ## Register ranges (spec/43_index_memory.md R110, R111) -/

@[simp] theorem State.dumpV_length (s : State) (x : Reg) : (s.dumpV x).length = x.val + 1 := by
  simp [State.dumpV]

theorem State.dumpV_getElem (s : State) (x : Reg) (k : Nat) (h : k < x.val + 1) :
    (s.dumpV x)[k]'(by simpa using h) = s.getV ⟨k, by omega⟩ := by
  simp [State.dumpV, State.getV]

theorem loadFrom_getElem (v : Vector Byte 16) (k : Nat) (bs : List Byte) (r : Nat) (hr : r < 16) :
    (loadFrom v k bs)[r] =
      if h : k ≤ r ∧ r < k + bs.length then bs[r - k] else v[r] := by
  induction bs generalizing v k with
  | nil => simp [loadFrom, show ¬ (k ≤ r ∧ r < k) by omega]
  | cons b bs ih =>
    by_cases hk : k < 16
    · have e : loadFrom v k (b :: bs) = loadFrom (v.set k b hk) (k + 1) bs := by
        rw [loadFrom, dif_pos hk]
      simp only [e, ih]
      by_cases h1 : k + 1 ≤ r ∧ r < k + 1 + bs.length
      · have h2 : k ≤ r ∧ r < k + (b :: bs).length := by simp only [List.length_cons]; omega
        rw [dif_pos h1, dif_pos h2]
        exact (getElem_cons_sub h2 h1).symm
      · rw [dif_neg h1]
        by_cases hrk : r = k
        · subst hrk; simp
        · have h2 : ¬ (k ≤ r ∧ r < k + (b :: bs).length) := by simp only [List.length_cons]; omega
          rw [dif_neg h2, Vector.getElem_set_ne _ _ (by omega)]
    · have e : loadFrom v k (b :: bs) = v := by rw [loadFrom, dif_neg hk]
      simp only [e]
      rw [dif_neg (by omega)]

/-! ## Pixels -/

theorem pixelAt_eq {fb : Framebuffer} {y x : Nat} (hx : x < 64) (hy : y < 32) :
    pixelAt fb y x = fb[y][x] := by
  simp [pixelAt, hx, hy]

theorem pixelAt_off {fb : Framebuffer} {y x : Nat} (h : ¬ onScreen y x) : pixelAt fb y x = false := by
  unfold pixelAt
  rw [dif_neg h]

@[simp] theorem pixelAt_blank (y x : Nat) : pixelAt blankFb y x = false := by
  unfold pixelAt
  split <;> simp [blankFb]

/-- Framebuffers with the same pixels are the same. -/
theorem fb_ext {fb fb' : Framebuffer} (h : ∀ y x, pixelAt fb y x = pixelAt fb' y x) : fb = fb' := by
  apply Vector.ext
  intro y hy
  apply Vector.ext
  intro x hx
  have := h y x
  rwa [pixelAt_eq hx hy, pixelAt_eq hx hy] at this

theorem drawPixel_pixelAt (d : Blit) (px py y x : Nat) :
    pixelAt (drawPixel d px py).fb y x =
      (pixelAt d.fb y x ^^ decide (y = py ∧ x = px ∧ onScreen y x)) := by
  unfold drawPixel
  by_cases hp : px < 64 ∧ py < 32
  · rw [dif_pos hp]
    by_cases hs : onScreen y x
    · rw [pixelAt_eq hs.1 hs.2, pixelAt_eq hs.1 hs.2]
      by_cases hy : y = py
      · subst hy
        by_cases hx : x = px
        · subst hx; simp [hs.1, hs.2]
        · simp [hx, Vector.getElem_set_ne _ _ (show px ≠ x by omega)]
      · simp [hy, Vector.getElem_set_ne _ _ (show py ≠ y by omega)]
    · rw [pixelAt_off hs, pixelAt_off hs]
      simp [hs]
  · rw [dif_neg hp]
    have : ¬ (y = py ∧ x = px ∧ onScreen y x) := by
      rintro ⟨rfl, rfl, hs⟩; exact hp hs
    rw [decide_eq_false this, Bool.xor_false]

theorem drawPixel_hit (d : Blit) (px py : Nat) :
    (drawPixel d px py).hit = (d.hit || pixelAt d.fb py px) := by
  unfold drawPixel pixelAt
  split <;> simp

/-! ## Row bytes -/

theorem drawColumns_pixelAt (b : Byte) (x0 py c : Nat) (d : Blit) (hc : c ≤ 8) (y x : Nat) :
    pixelAt (drawColumns b x0 py c d).fb y x =
      (pixelAt d.fb y x ^^
        decide (onScreen y x ∧ y = py ∧ x0 + 8 ≤ x + c ∧ x < x0 + 8
          ∧ b.getLsbD (7 - (x - x0)) = true)) := by
  induction c generalizing d with
  | zero =>
    have : ¬ (onScreen y x ∧ y = py ∧ x0 + 8 ≤ x + 0 ∧ x < x0 + 8
        ∧ b.getLsbD (7 - (x - x0)) = true) := by omega
    rw [decide_eq_false this, Bool.xor_false, drawColumns]
  | succ c ih =>
    rw [drawColumns, ih _ (by omega)]
    have hd : pixelAt (if b.getLsbD c then drawPixel d (x0 + (7 - c)) py else d).fb y x =
        (pixelAt d.fb y x ^^
          decide (b.getLsbD c = true ∧ y = py ∧ x = x0 + (7 - c) ∧ onScreen y x)) := by
      split
      · next hb => rw [drawPixel_pixelAt]; simp [hb]
      · next hb => simp [hb]
    rw [hd, Bool.xor_assoc]
    congr 1
    by_cases hx : x = x0 + (7 - c)
    · have h1 : ¬ (onScreen y x ∧ y = py ∧ x0 + 8 ≤ x + c ∧ x < x0 + 8
          ∧ b.getLsbD (7 - (x - x0)) = true) := by omega
      have h2 : 7 - (x - x0) = c := by omega
      rw [decide_eq_false h1, Bool.xor_false, h2]
      apply decide_eq_decide.2
      constructor
      · rintro ⟨a, b, -, e⟩; exact ⟨e, b, by omega, by omega, a⟩
      · rintro ⟨e, b, -, -, a⟩; exact ⟨a, b, hx, e⟩
    · have h1 : ¬ (b.getLsbD c = true ∧ y = py ∧ x = x0 + (7 - c) ∧ onScreen y x) := by
        rintro ⟨-, -, e, -⟩; exact hx e
      rw [decide_eq_false h1, Bool.false_xor]
      apply decide_eq_decide.2
      constructor
      · rintro ⟨a, b, e, f, g⟩; exact ⟨a, b, by omega, f, g⟩
      · rintro ⟨a, b, e, f, g⟩; exact ⟨a, b, by omega, f, g⟩

theorem drawColumns_hit (b : Byte) (x0 py c : Nat) (d : Blit) (hc : c ≤ 8) :
    (drawColumns b x0 py c d).hit = true ↔
      d.hit = true ∨ ∃ x, x0 + 8 ≤ x + c ∧ x < x0 + 8 ∧ b.getLsbD (7 - (x - x0)) = true
        ∧ pixelAt d.fb py x = true := by
  induction c generalizing d with
  | zero =>
    rw [drawColumns]
    constructor
    · exact .inl
    · rintro (h | ⟨x, h1, h2, -⟩)
      · exact h
      · omega
  | succ c ih =>
    rw [drawColumns, ih _ (by omega)]
    by_cases hb : b.getLsbD c = true
    · simp only [hb, if_true, drawPixel_hit, Bool.or_eq_true, drawPixel_pixelAt, true_and]
      constructor
      · rintro ((h | h) | ⟨x, h1, h2, h3, h4⟩)
        · exact .inl h
        · refine .inr ⟨x0 + (7 - c), by omega, by omega, ?_, h⟩
          rwa [show 7 - (x0 + (7 - c) - x0) = c by omega]
        · refine .inr ⟨x, by omega, h2, h3, ?_⟩
          have : ¬ (x = x0 + (7 - c) ∧ onScreen py x) := by omega
          rwa [decide_eq_false this, Bool.xor_false] at h4
      · rintro (h | ⟨x, h1, h2, h3, h4⟩)
        · exact .inl (.inl h)
        · by_cases hx : x = x0 + (7 - c)
          · exact .inl (.inr (hx ▸ h4))
          · refine .inr ⟨x, by omega, h2, h3, ?_⟩
            have : ¬ (x = x0 + (7 - c) ∧ onScreen py x) := by
              rintro ⟨e, -⟩; exact hx e
            rwa [decide_eq_false this, Bool.xor_false]
    · rw [if_neg hb]
      constructor
      · rintro (h | ⟨x, h1, h2, h3, h4⟩)
        · exact .inl h
        · exact .inr ⟨x, by omega, h2, h3, h4⟩
      · rintro (h | ⟨x, h1, h2, h3, h4⟩)
        · exact .inl h
        · refine .inr ⟨x, ?_, h2, h3, h4⟩
          by_contra hlt
          have : 7 - (x - x0) = c := by omega
          exact hb (this ▸ h3)

/-! ## Sprites -/

theorem decide_and_left {p q : Prop} [Decidable p] [Decidable q] (hp : p) :
    decide (p ∧ q) = decide q := by
  simp [hp]

theorem drawRows_pixelAt (x0 py : Nat) (bs : List Byte) (d : Blit) (y x : Nat) :
    pixelAt (drawRows x0 py bs d).fb y x =
      (pixelAt d.fb y x ^^ (decide (onScreen y x) && spriteBit x0 py bs y x)) := by
  induction bs generalizing py d with
  | nil => simp [drawRows, spriteBit]
  | cons b bs ih =>
    rw [drawRows, ih, drawRow, drawColumns_pixelAt _ _ _ _ _ (Nat.le_refl 8), Bool.xor_assoc]
    congr 1
    by_cases hs : onScreen y x
    · rw [decide_and_left hs, decide_eq_true hs, Bool.true_and, Bool.true_and]
      unfold spriteBit
      by_cases hx : x0 ≤ x ∧ x < x0 + 8
      · rcases Nat.lt_trichotomy y py with hlt | rfl | hgt
        · simp [show ¬ py + 1 ≤ y by omega, show ¬ py ≤ y by omega, show y ≠ py by omega]
        · simp [hx.1, hx.2]
        · obtain ⟨k, rfl⟩ : ∃ k, y = py + 1 + k := ⟨y - (py + 1), by omega⟩
          simp [hx.1, hx.2, show py + 1 + k ≠ py by omega, show py ≤ py + 1 + k by omega,
            show py + 1 + k - (py + 1) = k by omega, show py + 1 + k - py = k + 1 by omega]
      · by_cases h1 : x0 ≤ x
        · simp [show ¬ x < x0 + 8 by omega]
        · simp [h1]
    · simp [hs]

theorem drawRows_hit (x0 py : Nat) (bs : List Byte) (d : Blit) :
    (drawRows x0 py bs d).hit = true ↔
      d.hit = true ∨ ∃ y x, spriteBit x0 py bs y x = true ∧ pixelAt d.fb y x = true := by
  induction bs generalizing py d with
  | nil => simp [drawRows, spriteBit]
  | cons b bs ih =>
    rw [drawRows, ih, drawRow, drawColumns_hit _ _ _ _ _ (Nat.le_refl 8)]
    simp only [drawColumns_pixelAt _ _ _ _ _ (Nat.le_refl 8)]
    have hrow : ∀ x, spriteBit x0 py (b :: bs) py x = true ↔
        x0 ≤ x ∧ x < x0 + 8 ∧ b.getLsbD (7 - (x - x0)) = true := by
      intro x; simp [spriteBit, and_assoc]
    have hlow : ∀ y x, py < y → spriteBit x0 py (b :: bs) y x = spriteBit x0 (py + 1) bs y x := by
      intro y x hy
      obtain ⟨k, rfl⟩ : ∃ k, y = py + 1 + k := ⟨y - (py + 1), by omega⟩
      simp [spriteBit, show py ≤ py + 1 + k by omega,
        show py + 1 + k - (py + 1) = k by omega, show py + 1 + k - py = k + 1 by omega]
    have hge : ∀ y x, spriteBit x0 (py + 1) bs y x = true → py < y := by
      intro y x h
      simp only [spriteBit, Bool.and_eq_true, decide_eq_true_eq] at h
      omega
    constructor
    · rintro ((h | ⟨x, h1, h2, h3, h4⟩) | ⟨y, x, h1, h2⟩)
      · exact .inl h
      · exact .inr ⟨py, x, (hrow x).2 ⟨by omega, h2, h3⟩, h4⟩
      · have hy := hge y x h1
        have : ¬ (onScreen y x ∧ y = py ∧ x0 + 8 ≤ x + 8 ∧ x < x0 + 8
            ∧ b.getLsbD (7 - (x - x0)) = true) := by omega
        rw [decide_eq_false this, Bool.xor_false] at h2
        exact .inr ⟨y, x, by rw [hlow y x hy]; exact h1, h2⟩
    · rintro (h | ⟨y, x, h1, h2⟩)
      · exact .inl (.inl h)
      · by_cases hy : y = py
        · subst hy
          have := (hrow x).1 h1
          exact .inl (.inr ⟨x, by omega, this.2.1, this.2.2, h2⟩)
        · have hlt : py < y := by
            have : py ≤ y := by
              simp only [spriteBit, Bool.and_eq_true, decide_eq_true_eq] at h1
              exact h1.1.2
            omega
          refine .inr ⟨y, x, by rw [← hlow y x hlt]; exact h1, ?_⟩
          have : ¬ (onScreen y x ∧ y = py ∧ x0 + 8 ≤ x + 8 ∧ x < x0 + 8
              ∧ b.getLsbD (7 - (x - x0)) = true) := by omega
          rwa [decide_eq_false this, Bool.xor_false]

/-- Every pixel of a drawn sprite (R74, R75, R76): XOR of the old pixel and the source bit on it. -/
theorem drawSprite_pixelAt (fb : Framebuffer) (x0 y0 : Nat) (rows : List Byte) (y x : Nat) :
    pixelAt (drawSprite fb x0 y0 rows).fb y x =
      (pixelAt fb y x ^^ (decide (onScreen y x) && spriteBit x0 y0 rows y x)) :=
  drawRows_pixelAt x0 y0 rows { fb := fb, hit := false } y x

/-- The collision of a drawn sprite (R78): a source bit falls on a lit pixel. -/
theorem drawSprite_hit (fb : Framebuffer) (x0 y0 : Nat) (rows : List Byte) :
    (drawSprite fb x0 y0 rows).hit = true ↔
      ∃ y x, spriteBit x0 y0 rows y x = true ∧ pixelAt fb y x = true := by
  rw [drawSprite, drawRows_hit]
  simp

end Sys2Proof.Machine
end

