-- ==== Sys2Proof/Laws/Exec.lean ====
section
/-! SUPPORT. What each instruction's `exec` is, as an equation: one for an instruction that cannot
fault, two or more (completing or faulting) for one that can.  Proofs about an instruction start here
instead of unfolding its meaning and the handler wrapper. -/

namespace Sys2Proof.Machine

/-- `t` as an instruction that completes leaves it: the trace record appended (R71). -/
def completed (i : Instr) (s t : State) : Host.Outcome State Fault Refusal :=
  .next (t.traceAppend s.pc (encode i) i.mnemonic)

/-- `s` as an instruction that faults leaves it (R129). -/
def faulted (i : Instr) (s : State) (f : Fault) : Host.Outcome State Fault Refusal :=
  .next (s.takeFault f (encode i))

theorem runHandler_completed {i : Instr} {h : Handler} {s t : State} (ht : h s.advancePc = .ok t) :
    runHandler i h s = completed i s t := runHandler_ok ht

theorem runHandler_faulted {i : Instr} {h : Handler} {s : State} {f : Fault}
    (hf : h s.advancePc = .error f) : runHandler i h s = faulted i s f := runHandler_error hf

/-! ## Instructions that cannot fault -/

theorem exec_cls (s : State) :
    exec .cls s =
      completed .cls s (s.advancePc.setFb blankFb) := rfl

theorem exec_jp (nnn : Addr12) (s : State) :
    exec (.jp nnn) s =
      completed (.jp nnn) s (s.advancePc.setPc (wordOfAddr nnn)) := rfl

theorem exec_seVxNn (x : Reg) (nn : Byte) (s : State) :
    exec (.seVxNn x nn) s =
      completed (.seVxNn x nn) s (s.advancePc.skipIf (s.getV x == nn)) := rfl

theorem exec_sneVxNn (x : Reg) (nn : Byte) (s : State) :
    exec (.sneVxNn x nn) s =
      completed (.sneVxNn x nn) s (s.advancePc.skipIf (s.getV x != nn)) := rfl

theorem exec_seVxVy (x y : Reg) (ign : Nibble) (s : State) :
    exec (.seVxVy x y ign) s =
      completed (.seVxVy x y ign) s (s.advancePc.skipIf (s.getV x == s.getV y)) := rfl

theorem exec_ldVxNn (x : Reg) (nn : Byte) (s : State) :
    exec (.ldVxNn x nn) s =
      completed (.ldVxNn x nn) s (s.advancePc.setV x nn) := rfl

theorem exec_addVxNn (x : Reg) (nn : Byte) (s : State) :
    exec (.addVxNn x nn) s =
      completed (.addVxNn x nn) s (s.advancePc.setV x (s.getV x + nn)) := rfl

theorem exec_ldVxVy (x y : Reg) (s : State) :
    exec (.ldVxVy x y) s =
      completed (.ldVxVy x y) s (s.advancePc.setV x (s.getV y)) := rfl

theorem exec_orVxVy (x y : Reg) (s : State) :
    exec (.orVxVy x y) s =
      completed (.orVxVy x y) s (s.advancePc.setV x (s.getV x ||| s.getV y)) := rfl

theorem exec_andVxVy (x y : Reg) (s : State) :
    exec (.andVxVy x y) s =
      completed (.andVxVy x y) s (s.advancePc.setV x (s.getV x &&& s.getV y)) := rfl

theorem exec_xorVxVy (x y : Reg) (s : State) :
    exec (.xorVxVy x y) s =
      completed (.xorVxVy x y) s (s.advancePc.setV x (s.getV x ^^^ s.getV y)) := rfl

theorem exec_addVxVy (x y : Reg) (s : State) :
    exec (.addVxVy x y) s =
      completed (.addVxVy x y) s (s.advancePc.writeResultAndFlag x (aluAdd (s.getV x) (s.getV y))) := rfl

theorem exec_subVxVy (x y : Reg) (s : State) :
    exec (.subVxVy x y) s =
      completed (.subVxVy x y) s (s.advancePc.writeResultAndFlag x (aluSub (s.getV x) (s.getV y))) := rfl

theorem exec_shrVx (x : Reg) (ign : Nibble) (s : State) :
    exec (.shrVx x ign) s =
      completed (.shrVx x ign) s (s.advancePc.writeResultAndFlag x (aluShr (s.getV x))) := rfl

theorem exec_subnVxVy (x y : Reg) (s : State) :
    exec (.subnVxVy x y) s =
      completed (.subnVxVy x y) s (s.advancePc.writeResultAndFlag x (aluSub (s.getV y) (s.getV x))) := rfl

theorem exec_shlVx (x : Reg) (ign : Nibble) (s : State) :
    exec (.shlVx x ign) s =
      completed (.shlVx x ign) s (s.advancePc.writeResultAndFlag x (aluShl (s.getV x))) := rfl

theorem exec_sneVxVy (x y : Reg) (ign : Nibble) (s : State) :
    exec (.sneVxVy x y ign) s =
      completed (.sneVxVy x y ign) s (s.advancePc.skipIf (s.getV x != s.getV y)) := rfl

theorem exec_ldINnn (nnn : Addr12) (s : State) :
    exec (.ldINnn nnn) s =
      completed (.ldINnn nnn) s (s.advancePc.setI (wordOfAddr nnn)) := rfl

theorem exec_jpV0 (nnn : Addr12) (s : State) :
    exec (.jpV0 nnn) s =
      completed (.jpV0 nnn) s (s.advancePc.setPc (offsetTarget nnn (s.getV 0))) := rfl

theorem exec_rnd (x : Reg) (nn : Byte) (s : State) :
    exec (.rnd x nn) s =
      completed (.rnd x nn) s (s.advancePc.takeDraw.setV x ((s.nextDraw &&& nn.setWidth 32).setWidth 8)) := rfl

theorem exec_ldVxDt (x : Reg) (s : State) :
    exec (.ldVxDt x) s =
      completed (.ldVxDt x) s (s.advancePc.setV x s.dt) := rfl

theorem exec_ldDtVx (x : Reg) (s : State) :
    exec (.ldDtVx x) s =
      completed (.ldDtVx x) s (s.advancePc.setDt (s.getV x)) := rfl

theorem exec_ldStVx (x : Reg) (s : State) :
    exec (.ldStVx x) s =
      completed (.ldStVx x) s (s.advancePc.setSt (s.getV x)) := rfl

theorem exec_addIVx (x : Reg) (s : State) :
    exec (.addIVx x) s =
      completed (.addIVx x) s (s.advancePc.setI (s.i + (s.getV x).setWidth 16)) := rfl

theorem exec_ldFVx (x : Reg) (s : State) :
    exec (.ldFVx x) s =
      completed (.ldFVx x) s (s.advancePc.setI (glyphAddr (s.getV x))) := rfl

/-! ## LD Vx, K -/

theorem exec_ldVxK_none (x : Reg) (s : State) (h : ∀ k : Reg, s.keypad[k] = false) :
    exec (.ldVxK x) s = completed (.ldVxK x) s s.advancePc.rollBackPc := by
  rw [exec, execLdVxK]
  refine runHandler_completed ?_
  simp only [(State.lowestKey_none s.advancePc).2 h]

theorem exec_ldVxK_some (x k : Reg) (s : State) (hk : s.keypad[k] = true)
    (hl : ∀ j : Reg, j < k → s.keypad[j] = false) :
    exec (.ldVxK x) s = completed (.ldVxK x) s (s.advancePc.setV x (BitVec.ofNat 8 k.val)) := by
  rw [exec, execLdVxK]
  refine runHandler_completed ?_
  simp only [(State.lowestKey_some s.advancePc k.val).2 ⟨k, rfl, hk, hl⟩]

/-! ## Instructions with a check of their own -/

theorem exec_call_ok (nnn : Addr12) (s : State) (h : s.sp.toNat < 16) :
    exec (.call nnn) s =
      completed (.call nnn) s ((s.advancePc.pushed (s.pc + 2)).setPc (wordOfAddr nnn)) := by
  rw [exec, execCall]
  refine runHandler_completed ?_
  simp only [State.push_ok s.advancePc _ h, State.advancePc_pc]

theorem exec_call_error (nnn : Addr12) (s : State) (h : 16 ≤ s.sp.toNat) :
    exec (.call nnn) s = faulted (.call nnn) s (.stackOverflow s.sp) := by
  rw [exec, execCall]
  refine runHandler_faulted ?_
  simp only [State.push_error s.advancePc _ h, State.advancePc_sp]

theorem exec_ret_ok (s : State) (h : (s.sp + 1).toNat < 16) :
    exec .ret s =
      completed .ret s ((s.advancePc.setSp (s.sp + 1)).setPc s.stack[(s.sp + 1).toNat]) := by
  rw [exec, execRet]
  refine runHandler_completed ?_
  simp only [State.pop_ok s.advancePc h]
  rfl

theorem exec_ret_error (s : State) (h : 16 ≤ (s.sp + 1).toNat) :
    exec .ret s = faulted .ret s (.stackUnderflow s.sp) := by
  rw [exec, execRet]
  refine runHandler_faulted ?_
  simp only [State.pop_error s.advancePc h, State.advancePc_sp]

theorem exec_skp_ok (x : Reg) (s : State) (h : (s.getV x).toNat < 16) :
    exec (.skp x) s =
      completed (.skp x) s (s.advancePc.skipIf s.keypad[(s.getV x).toNat]) := by
  rw [exec, execSkp]
  refine runHandler_completed ?_
  simp only [State.advancePc_getV, State.keyAt_ok s.advancePc _ h]
  rfl

theorem exec_skp_error (x : Reg) (s : State) (h : 16 ≤ (s.getV x).toNat) :
    exec (.skp x) s = faulted (.skp x) s (.keyRange (s.getV x)) := by
  rw [exec, execSkp]
  refine runHandler_faulted ?_
  simp only [State.advancePc_getV, State.keyAt_error s.advancePc _ h]

theorem exec_sknp_ok (x : Reg) (s : State) (h : (s.getV x).toNat < 16) :
    exec (.sknp x) s =
      completed (.sknp x) s (s.advancePc.skipIf (!s.keypad[(s.getV x).toNat])) := by
  rw [exec, execSknp]
  refine runHandler_completed ?_
  simp only [State.advancePc_getV, State.keyAt_ok s.advancePc _ h]
  rfl

theorem exec_sknp_error (x : Reg) (s : State) (h : 16 ≤ (s.getV x).toNat) :
    exec (.sknp x) s = faulted (.sknp x) s (.keyRange (s.getV x)) := by
  rw [exec, execSknp]
  refine runHandler_faulted ?_
  simp only [State.advancePc_getV, State.keyAt_error s.advancePc _ h]

theorem exec_ldBVx_ok (x : Reg) (s : State) (h : s.i.toNat + 2 < memSize) :
    exec (.ldBVx x) s =
      completed (.ldBVx x) s (s.advancePc.storeBytes s.i.toNat (bcdDigits (s.getV x))) := by
  rw [exec, execLdBVx]
  refine runHandler_completed ?_
  exact State.memWrite_ok s.advancePc (.inr (by simp [bcdDigits]; omega))

theorem exec_ldBVx_error (x : Reg) (s : State) (h : memSize ≤ s.i.toNat + 2) :
    exec (.ldBVx x) s = faulted (.ldBVx x) s (.memRange (max s.i.toNat memSize)) := by
  rw [exec, execLdBVx]
  refine runHandler_faulted ?_
  exact State.memWrite_error s.advancePc (by simp [bcdDigits]) (by simp [bcdDigits]; omega)

theorem exec_ldMemVx_ok (x : Reg) (s : State) (h : s.i.toNat + x.val < memSize) :
    exec (.ldMemVx x) s =
      completed (.ldMemVx x) s (s.advancePc.storeBytes s.i.toNat (s.dumpV x)) := by
  rw [exec, execLdMemVx]
  refine runHandler_completed ?_
  exact State.memWrite_ok s.advancePc (.inr (by simp; omega))

theorem exec_ldMemVx_error (x : Reg) (s : State) (h : memSize ≤ s.i.toNat + x.val) :
    exec (.ldMemVx x) s = faulted (.ldMemVx x) s (.memRange (max s.i.toNat memSize)) := by
  rw [exec, execLdMemVx]
  refine runHandler_faulted ?_
  exact State.memWrite_error s.advancePc (by simp) (by simp; omega)

theorem exec_ldVxMem_ok (x : Reg) (s : State) (h : s.i.toNat + x.val < memSize) :
    exec (.ldVxMem x) s =
      completed (.ldVxMem x) s
        (s.advancePc.setVs (loadFrom s.v 0 (s.bytesAt s.i.toNat (x.val + 1)))) := by
  rw [exec, execLdVxMem]
  refine runHandler_completed ?_
  simp only [State.memRead_ok s.advancePc (a := s.i.toNat) (n := x.val + 1) (.inr (by omega)),
    State.advancePc_i, State.advancePc_v, State.advancePc_bytesAt]

theorem exec_ldVxMem_error (x : Reg) (s : State) (h : memSize ≤ s.i.toNat + x.val) :
    exec (.ldVxMem x) s = faulted (.ldVxMem x) s (.memRange (max s.i.toNat memSize)) := by
  rw [exec, execLdVxMem]
  refine runHandler_faulted ?_
  simp only [State.memRead_error s.advancePc (a := s.i.toNat) (n := x.val + 1) (by omega)
    (by omega), State.advancePc_i]

theorem exec_drw_ok (x y : Reg) (n : Nat) (s : State) (h : n = 0 ∨ s.i.toNat + n ≤ memSize) :
    exec (.drw x y n) s =
      completed (.drw x y n) s
        ((s.advancePc.setFb
          (drawSprite s.fb (s.getV x).toNat (s.getV y).toNat (s.bytesAt s.i.toNat n)).fb).setV Reg.vf
          (flagByte
            (drawSprite s.fb (s.getV x).toNat (s.getV y).toNat (s.bytesAt s.i.toNat n)).hit)) := by
  rw [exec, execDrw]
  refine runHandler_completed ?_
  simp only [drawHandler, State.memRead_ok s.advancePc (a := s.i.toNat) (n := n) h,
    State.advancePc_i, State.advancePc_fb, State.advancePc_getV, State.advancePc_bytesAt]

theorem exec_drw_error (x y : Reg) (n : Nat) (s : State) (h0 : n ≠ 0)
    (h : memSize < s.i.toNat + n) :
    exec (.drw x y n) s = faulted (.drw x y n) s (.memRange (max s.i.toNat memSize)) := by
  rw [exec, execDrw]
  refine runHandler_faulted ?_
  simp only [drawHandler, State.memRead_error s.advancePc (a := s.i.toNat) (n := n) h0 h,
    State.advancePc_i]

end Sys2Proof.Machine
end

