-- ==== Sys2Proof/Laws/PerInstr.lean ====
section
/-! SUPPORT. A statement about every instruction as syntax, one lemma per constructor. -/

namespace Sys2Proof.Laws.EncodeMatchesRow

/-- The word of an instruction has the fixed bits of its row of the opcode table
(spec/30_encoding.md R62, spec/opcode_table.json). -/
def Statement (i : Instr) : Prop := encode i &&& i.mnemonic.mask = i.mnemonic.pattern

theorem mask_nnn (op : Nibble) (a : Addr12) : encodeNNN op a &&& 0xF000#16 = encodeNNN op 0 := by
  rw [and_F000, fieldOp_encodeNNN]

theorem mask_xnn (op : Nibble) (x : Reg) (nn : Byte) :
    encodeXNN op x nn &&& 0xF000#16 = encodeNNN op 0 := by
  rw [and_F000, fieldOp_encodeXNN]

theorem mask_xyn (op : Nibble) (x : Reg) (y n : Nibble) :
    encodeXYN op x y n &&& 0xF000#16 = encodeNNN op 0 := by
  rw [and_F000, fieldOp_encodeXYN]

theorem mask_xy (op : Nibble) (x : Reg) (y n : Nibble) :
    encodeXYN op x y n &&& 0xF00F#16 = encodeXYN op 0 0 n := by
  rw [and_F00F, fieldOp_encodeXYN, fieldN_encodeXYN]

theorem mask_x (op : Nibble) (x : Reg) (nn : Byte) :
    encodeXNN op x nn &&& 0xF0FF#16 = encodeXNN op 0 nn := by
  rw [and_F0FF, fieldOp_encodeXNN, fieldNN_encodeXNN]

theorem cls : Statement (.cls) := rfl

theorem ret : Statement (.ret) := rfl

theorem jp (nnn : Addr12) : Statement (.jp nnn) := mask_nnn _ _

theorem call (nnn : Addr12) : Statement (.call nnn) := mask_nnn _ _

theorem seVxNn (x : Reg) (nn : Byte) : Statement (.seVxNn x nn) := mask_xnn _ _ _

theorem sneVxNn (x : Reg) (nn : Byte) : Statement (.sneVxNn x nn) := mask_xnn _ _ _

theorem seVxVy (x y : Reg) (ign : Nibble) : Statement (.seVxVy x y ign) := mask_xyn _ _ _ _

theorem ldVxNn (x : Reg) (nn : Byte) : Statement (.ldVxNn x nn) := mask_xnn _ _ _

theorem addVxNn (x : Reg) (nn : Byte) : Statement (.addVxNn x nn) := mask_xnn _ _ _

theorem ldVxVy (x y : Reg) : Statement (.ldVxVy x y) := mask_xy _ _ _ _

theorem orVxVy (x y : Reg) : Statement (.orVxVy x y) := mask_xy _ _ _ _

theorem andVxVy (x y : Reg) : Statement (.andVxVy x y) := mask_xy _ _ _ _

theorem xorVxVy (x y : Reg) : Statement (.xorVxVy x y) := mask_xy _ _ _ _

theorem addVxVy (x y : Reg) : Statement (.addVxVy x y) := mask_xy _ _ _ _

theorem subVxVy (x y : Reg) : Statement (.subVxVy x y) := mask_xy _ _ _ _

theorem shrVx (x : Reg) (ign : Nibble) : Statement (.shrVx x ign) := mask_xy _ _ _ _

theorem subnVxVy (x y : Reg) : Statement (.subnVxVy x y) := mask_xy _ _ _ _

theorem shlVx (x : Reg) (ign : Nibble) : Statement (.shlVx x ign) := mask_xy _ _ _ _

theorem sneVxVy (x y : Reg) (ign : Nibble) : Statement (.sneVxVy x y ign) := mask_xyn _ _ _ _

theorem ldINnn (nnn : Addr12) : Statement (.ldINnn nnn) := mask_nnn _ _

theorem jpV0 (nnn : Addr12) : Statement (.jpV0 nnn) := mask_nnn _ _

theorem rnd (x : Reg) (nn : Byte) : Statement (.rnd x nn) := mask_xnn _ _ _

theorem drw (x y : Reg) (n : Nat) : Statement (.drw x y n) := mask_xyn _ _ _ _

theorem skp (x : Reg) : Statement (.skp x) := mask_x _ _ _

theorem sknp (x : Reg) : Statement (.sknp x) := mask_x _ _ _

theorem ldVxDt (x : Reg) : Statement (.ldVxDt x) := mask_x _ _ _

theorem ldVxK (x : Reg) : Statement (.ldVxK x) := mask_x _ _ _

theorem ldDtVx (x : Reg) : Statement (.ldDtVx x) := mask_x _ _ _

theorem ldStVx (x : Reg) : Statement (.ldStVx x) := mask_x _ _ _

theorem addIVx (x : Reg) : Statement (.addIVx x) := mask_x _ _ _

theorem ldFVx (x : Reg) : Statement (.ldFVx x) := mask_x _ _ _

theorem ldBVx (x : Reg) : Statement (.ldBVx x) := mask_x _ _ _

theorem ldMemVx (x : Reg) : Statement (.ldMemVx x) := mask_x _ _ _

theorem ldVxMem (x : Reg) : Statement (.ldVxMem x) := mask_x _ _ _

/-- The statement holds of every instruction. -/
theorem all (i : Instr) : Statement i := by
  cases i with
  | cls => exact cls
  | ret => exact ret
  | jp nnn => exact jp nnn
  | call nnn => exact call nnn
  | seVxNn x nn => exact seVxNn x nn
  | sneVxNn x nn => exact sneVxNn x nn
  | seVxVy x y ign => exact seVxVy x y ign
  | ldVxNn x nn => exact ldVxNn x nn
  | addVxNn x nn => exact addVxNn x nn
  | ldVxVy x y => exact ldVxVy x y
  | orVxVy x y => exact orVxVy x y
  | andVxVy x y => exact andVxVy x y
  | xorVxVy x y => exact xorVxVy x y
  | addVxVy x y => exact addVxVy x y
  | subVxVy x y => exact subVxVy x y
  | shrVx x ign => exact shrVx x ign
  | subnVxVy x y => exact subnVxVy x y
  | shlVx x ign => exact shlVx x ign
  | sneVxVy x y ign => exact sneVxVy x y ign
  | ldINnn nnn => exact ldINnn nnn
  | jpV0 nnn => exact jpV0 nnn
  | rnd x nn => exact rnd x nn
  | drw x y n => exact drw x y n
  | skp x => exact skp x
  | sknp x => exact sknp x
  | ldVxDt x => exact ldVxDt x
  | ldVxK x => exact ldVxK x
  | ldDtVx x => exact ldDtVx x
  | ldStVx x => exact ldStVx x
  | addIVx x => exact addIVx x
  | ldFVx x => exact ldFVx x
  | ldBVx x => exact ldBVx x
  | ldMemVx x => exact ldMemVx x
  | ldVxMem x => exact ldVxMem x

end Sys2Proof.Laws.EncodeMatchesRow
end

