-- ==== Sys2Proof/Laws/Step.lean ====
section
/-! SUPPORT. What a STEP can be, said once: halted, a fault of the fetch, a fault of decode, or one
instruction. -/

namespace Sys2Proof.Machine

/-- Decode answers an instruction or refuses the word it was given (R61). -/
theorem decode_cases (w : Word) :
    (∃ i, decode w = .ok i) ∨ decode w = .error (.unimplemented w) := by
  unfold decode
  split <;> try exact .inl ⟨_, rfl⟩
  all_goals try exact .inr rfl
  · unfold decodeFamily0
    split
    · exact .inl ⟨_, rfl⟩
    · split
      · exact .inl ⟨_, rfl⟩
      · exact .inr rfl
  · unfold decodeFamily8; split <;> first | exact .inl ⟨_, rfl⟩ | exact .inr rfl
  · unfold decodeFamilyE; split <;> first | exact .inl ⟨_, rfl⟩ | exact .inr rfl
  · unfold decodeFamilyF; split <;> first | exact .inl ⟨_, rfl⟩ | exact .inr rfl

/-- The inversion of `step`: everything a STEP can be. -/
theorem step_cases (s : State) :
    (s.fault.halted = true ∧ step s = .next s) ∨
    (s.fault.halted = false ∧ memSize ≤ s.pc.toNat + 1 ∧
      step s = .next (s.takeFault (.memRange (max s.pc.toNat memSize)) 0)) ∨
    (s.fault.halted = false ∧ s.pc.toNat + 1 < memSize ∧
      ∃ w, w = wordOfBytes (s.readByte s.pc.toNat) (s.readByte (s.pc.toNat + 1)) ∧
        ((decode w = .error (.unimplemented w) ∧
            step s = .next (s.takeFault (.unimplemented w) w)) ∨
          ∃ i, decode w = .ok i ∧ step s = exec i s)) := by
  cases h : s.fault.halted with
  | true => exact .inl ⟨rfl, by simp [step, h]⟩
  | false =>
    right
    by_cases hp : memSize ≤ s.pc.toNat + 1
    · exact .inl ⟨rfl, hp, by simp only [step, h, State.fetchInstr, State.fetchWord_error s hp]; rfl⟩
    · have hp' : s.pc.toNat + 1 < memSize := by omega
      refine .inr ⟨rfl, hp', _, rfl, ?_⟩
      rcases decode_cases (wordOfBytes (s.readByte s.pc.toNat) (s.readByte (s.pc.toNat + 1)))
        with ⟨i, hi⟩ | he
      · exact .inr ⟨i, hi, by simp [step, h, State.fetchInstr, State.fetchWord_ok s hp', hi]⟩
      · exact .inl ⟨he, by simp only [step, h, State.fetchInstr, State.fetchWord_ok s hp', he]; rfl⟩

end Sys2Proof.Machine
end

