-- ==== Sys2Proof/Tests/Slice0.lean ====
section
/-! SUPPORT. Small tests: the expected values are those of spec/95_test_vectors.md (V1 to V71, E1 to
E8, cited by their ids), and the words are written out from the encodings of spec/30_encoding.md R62.
Then, for every statement that has hypotheses, a state and operands that meet them. -/

namespace Sys2Proof.Tests

open Sys2Proof Sys2Proof.Machine

/-! ## Helpers -/

/-- The state after INIT (R143), the start of every vector. -/
abbrev s0 : State := State.reset

/-- The next state of an outcome; `s0` stands for the outcomes that are none. -/
def stateOf : Host.Outcome State Fault Refusal → State
  | .next t => t
  | _ => s0

/-- One STEP on a state whose word at PC is `w`. -/
def run (w : Word) (s : State) : State := stateOf (step (s.placeWord w))

/-- The bytes at an address replaced. -/
abbrev bytes (s : State) (a : Nat) (bs : List Byte) : State := s.storeBytes a bs

/-- SP replaced. -/
abbrev withSp (sp : Byte) : State := s0.setSp sp

/-- The other setting of `VF_ORDER`. -/
abbrev resultLast (s : State) : State := s.withVfOrder .resultLast

/-- The pixels that are lit, row by row. -/
def lit (s : State) (y : Nat) : List Nat := (List.range 64).filter (pixelAt s.fb y)

/-- The fault of a state: its cause, op and info, and the PC. -/
abbrev faultOf (s : State) : Cause × Word × Word × Word :=
  (s.fault.cause, s.fault.op, s.fault.info, s.pc)

/-! ## WellFormed and reset -/

theorem test_wellFormed_count : (Instr.drw 0 0 15).wellFormed = true ∧
    (Instr.drw 0 0 16).wellFormed = false := by decide

/-- R143, V71. -/
theorem test_reset : s0.pc = 0x200 ∧ s0.sp = 15 ∧ s0.fault.halted = false ∧
    s0.bytesAt 0x100 5 = [0xF0, 0x90, 0x90, 0x90, 0xF0] ∧
    Memory.wf s0.cfg.font s0.mem = true := by decide

/-! ## Decoding (R62), every row by a word written out from its encoding -/

theorem test_decode_display : decode 0x00E0 = .ok .cls ∧
    decode 0xD125 = .ok (.drw 1 2 5) := ⟨rfl, rfl⟩

theorem test_decode_control : decode 0x00EE = .ok .ret ∧ decode 0x1FFE = .ok (.jp 0xFFE) ∧
    decode 0x2210 = .ok (.call 0x210) ∧ decode 0x3310 = .ok (.seVxNn 3 0x10) ∧
    decode 0x4310 = .ok (.sneVxNn 3 0x10) ∧ decode 0x512F = .ok (.seVxVy 1 2 0xF) ∧
    decode 0x9120 = .ok (.sneVxVy 1 2 0) ∧ decode 0xB300 = .ok (.jpV0 0x300) :=
  ⟨rfl, rfl, rfl, rfl, rfl, rfl, rfl, rfl⟩

theorem test_decode_alu : decode 0x6A7B = .ok (.ldVxNn 0xA 0x7B) ∧
    decode 0x71FE = .ok (.addVxNn 1 0xFE) ∧ decode 0x8AB0 = .ok (.ldVxVy 0xA 0xB) ∧
    decode 0x8011 = .ok (.orVxVy 0 1) ∧ decode 0x8012 = .ok (.andVxVy 0 1) ∧
    decode 0x8013 = .ok (.xorVxVy 0 1) ∧ decode 0x8F14 = .ok (.addVxVy 0xF 1) ∧
    decode 0x8215 = .ok (.subVxVy 2 1) ∧ decode 0x8016 = .ok (.shrVx 0 1) ∧
    decode 0x8217 = .ok (.subnVxVy 2 1) ∧ decode 0x822E = .ok (.shlVx 2 2) ∧
    decode 0xC3A5 = .ok (.rnd 3 0xA5) :=
  ⟨rfl, rfl, rfl, rfl, rfl, rfl, rfl, rfl, rfl, rfl, rfl, rfl⟩

theorem test_decode_index : decode 0xA250 = .ok (.ldINnn 0x250) ∧
    decode 0xF41E = .ok (.addIVx 4) ∧ decode 0xF529 = .ok (.ldFVx 5) ∧
    decode 0xFA33 = .ok (.ldBVx 0xA) ∧ decode 0xF155 = .ok (.ldMemVx 1) ∧
    decode 0xF265 = .ok (.ldVxMem 2) := ⟨rfl, rfl, rfl, rfl, rfl, rfl⟩

theorem test_decode_keypad : decode 0xE19E = .ok (.skp 1) ∧ decode 0xE1A1 = .ok (.sknp 1) ∧
    decode 0xF207 = .ok (.ldVxDt 2) ∧ decode 0xF50A = .ok (.ldVxK 5) ∧
    decode 0xF215 = .ok (.ldDtVx 2) ∧ decode 0xF318 = .ok (.ldStVx 3) :=
  ⟨rfl, rfl, rfl, rfl, rfl, rfl⟩

/-- V64, V43: words that fit no row. -/
theorem test_decode_unimplemented :
    decode 0x0123 = .error (.unimplemented 0x0123) ∧
    decode 0x00E1 = .error (.unimplemented 0x00E1) ∧
    decode 0x00FF = .error (.unimplemented 0x00FF) ∧
    decode 0xE09F = .error (.unimplemented 0xE09F) ∧
    decode 0xE0A0 = .error (.unimplemented 0xE0A0) ∧
    decode 0xF000 = .error (.unimplemented 0xF000) ∧
    decode 0xF0FF = .error (.unimplemented 0xF0FF) ∧
    decode 0x8018 = .error (.unimplemented 0x8018) ∧
    decode 0x801F = .error (.unimplemented 0x801F) :=
  ⟨rfl, rfl, rfl, rfl, rfl, rfl, rfl, rfl, rfl⟩

/-- R38: the high byte comes first. -/
theorem test_decodeBytes : decodeTableWord 16 0xA250 = some (.ldINnn 0x250) ∧
    decodeTableWord 16 0x5020 = some (.seVxVy 0 2 0) ∧ decodeTableWord 16 0x0000 = none := by decide

theorem test_withFetchWord : (stateOf (step (s0.withFetchWord 16 0xA250))).i = 0x250 := by decide

/-- P1 and P4: how lines are spelled, and the bytes they assemble to. -/
theorem test_assembly : (Instr.seVxNn 0 0).text = "SE V0, 0x00" ∧ (Instr.jp 0x20C).text = "JP 0x20C" ∧
    (Instr.drw 0 0xA 5).text = "DRW V0, VA, 0x5" ∧
    assemble [.instr (.ldVxNn 0 5), .instr (.shlVx 2 2), .db 0xFF] = [0x60, 0x05, 0x82, 0x0E, 0xFF] := by
  decide

/-! ## Display -/

/-- E3, V10: from a framebuffer of ones. -/
theorem test_cls :
    lit (run 0x00E0 { s0 with fb := Vector.replicate 32 (Vector.replicate 64 true) }) 31 = [] := by
  decide

/-- V1, V2, V5: bit 7 stands at column VX, and what is off the grid is clipped. -/
theorem test_drw_clips :
    lit (run 0xD011 ((bytes s0 0x300 [0x80] |>.setI 0x300).setV 0 0x3F |>.setV 1 0x1F)) 31 = [63] ∧
    lit (run 0xD011 ((bytes s0 0x300 [0xFF] |>.setI 0x300).setV 0 0x3E)) 0 = [62, 63] ∧
    lit (run 0xD012 ((bytes s0 0x300 [0xFF, 0xFF] |>.setI 0x300).setV 1 0x1F)) 0 = [] := by decide

/-- V9: the second draw erases and reports the collision; V8: x0 is the old VF. -/
theorem test_drw_collides :
    (run 0xD001 (run 0xD001 (bytes s0 0x300 [0xA0] |>.setI 0x300))).getV 0xF = 1 ∧
    lit (run 0xD001 (run 0xD001 (bytes s0 0x300 [0xA0] |>.setI 0x300))) 0 = [] ∧
    lit (run 0xDF01 ((bytes s0 0x300 [0xC0] |>.setI 0x300).setV 0xF 0x0A |>.setV 0 2)) 2 = [10, 11]
    := by decide

/-! ## Control -/

/-- V11. -/
theorem test_jp : (run 0x1FFE s0).pc = 0xFFE := by decide

/-- V12. -/
theorem test_call : (run 0x2210 (s0.setPc 0x204)).stack[15] = 0x206 ∧
    (run 0x2210 (s0.setPc 0x204)).sp = 14 ∧ (run 0x2210 (s0.setPc 0x204)).pc = 0x210 := by decide

/-- V15, V16: slot 0 is used, SP is 255 after it, and the next CALL faults. -/
theorem test_call_overflow : (run 0x2200 (withSp 0)).sp = 255 ∧
    (run 0x2200 (withSp 0)).stack[0] = 0x202 ∧
    faultOf (run 0x2200 (withSp 255)) = (.stackOverflow, 0x2200, 255, 0x200) := by decide

/-- V13, V17. -/
theorem test_ret : (run 0x00EE { withSp 14 with stack := s0.stack.set 15 0x206 }).pc = 0x206 ∧
    (run 0x00EE { withSp 255 with stack := s0.stack.set 0 0x300 }).pc = 0x300 ∧
    (run 0x00EE (withSp 255)).sp = 0 := by decide

/-- V14. -/
theorem test_ret_underflow :
    faultOf (run 0x00EE s0) = (.stackUnderflow, 0x00EE, 15, 0x200) := by decide

/-- V18. -/
theorem test_seVxNn : (run 0x3310 (s0.setV 3 0x10)).pc = 0x204 ∧ (run 0x3311 (s0.setV 3 0x10)).pc = 0x202 := by
  decide

/-- V18. -/
theorem test_sneVxNn : (run 0x4310 (s0.setV 3 0x10)).pc = 0x202 ∧ (run 0x4311 (s0.setV 3 0x10)).pc = 0x204 := by
  decide

/-- V19: the low nibble is ignored. -/
theorem test_seVxVy : (run 0x5120 ((s0.setV 1 7).setV 2 7)).pc = 0x204 ∧
    (run 0x512F ((s0.setV 1 7).setV 2 7)).pc = 0x204 := by decide

/-- V19. -/
theorem test_sneVxVy : (run 0x9120 ((s0.setV 1 7).setV 2 7)).pc = 0x202 ∧
    (run 0x912F (s0.setV 1 7)).pc = 0x204 := by decide

/-- V21, V22: the target may lie above 4095. -/
theorem test_jpV0 : (run 0xB300 (s0.setV 0 4)).pc = 0x304 ∧
    (run 0xBFFF (s0.setV 0 0xFF)).pc = 0x10FE := by decide

/-! ## ALU -/

/-- E1. -/
theorem test_ldVxNn : (run 0x6A7B s0).getV 0xA = 0x7B := by decide

/-- V26: the sum wraps and VF stays. -/
theorem test_addVxNn : (run 0x70FF ((s0.setV 0 1).setV 0xF 5)).getV 0 = 0 ∧
    (run 0x70FF ((s0.setV 0 1).setV 0xF 5)).getV 0xF = 5 := by decide

/-- R92. -/
theorem test_ldVxVy : (run 0x8010 ((s0.setV 0 1).setV 1 2)).getV 0 = 2 := by decide

/-- V27. -/
theorem test_orVxVy : (run 0x8011 ((s0.setV 0 0xF0).setV 1 0x3C)).getV 0 = 0xFC := by decide

/-- V27. -/
theorem test_andVxVy : (run 0x8012 ((s0.setV 0 0xF0).setV 1 0x3C)).getV 0 = 0x30 := by decide

/-- V27. -/
theorem test_xorVxVy : (run 0x8013 ((s0.setV 0 0xF0).setV 1 0x3C)).getV 0 = 0xCC := by decide

/-- E2, V39. -/
theorem test_addVxVy : (run 0x8014 ((s0.setV 0 0x7F).setV 1 0x80)).getV 0xF = 0 ∧
    (run 0x8014 ((s0.setV 0 0x80).setV 1 0x80)).getV 0xF = 1 ∧
    (run 0x80F4 ((s0.setV 0 1).setV 0xF 0xFF)).getV 0 = 0 := by decide

/-- V34: X = F under both settings. -/
theorem test_addVxVy_vf : (run 0x8F14 ((s0.setV 0xF 0xF0).setV 1 0x20)).getV 0xF = 0x01 ∧
    (run 0x8F14 (resultLast ((s0.setV 0xF 0xF0).setV 1 0x20))).getV 0xF = 0x10 := by decide

/-- V28, V29. -/
theorem test_subVxVy : (run 0x8015 ((s0.setV 0 5).setV 1 5)).getV 0xF = 1 ∧
    (run 0x8015 ((s0.setV 0 0x10).setV 1 0x20)).getV 0 = 0xF0 ∧
    (run 0x8015 ((s0.setV 0 0x10).setV 1 0x20)).getV 0xF = 0 := by decide

/-- V35. -/
theorem test_subVxVy_vf : (run 0x8F15 ((s0.setV 0xF 5).setV 1 0x10)).getV 0xF = 0x00 ∧
    (run 0x8F15 (resultLast ((s0.setV 0xF 5).setV 1 0x10))).getV 0xF = 0xF5 := by decide

/-- V32. -/
theorem test_shrVx : (run 0x8016 ((s0.setV 0 5).setV 1 0xAA)).getV 0 = 2 ∧
    (run 0x8016 ((s0.setV 0 5).setV 1 0xAA)).getV 0xF = 1 := by decide

/-- V36. -/
theorem test_shrVx_vf : (run 0x8F06 (s0.setV 0xF 2)).getV 0xF = 0x00 ∧
    (run 0x8F06 (resultLast (s0.setV 0xF 2))).getV 0xF = 0x01 := by decide

/-- V30. -/
theorem test_subnVxVy : (run 0x8017 ((s0.setV 0 5).setV 1 3)).getV 0 = 0xFE ∧
    (run 0x8017 ((s0.setV 0 5).setV 1 3)).getV 0xF = 0 := by decide

/-- V37. -/
theorem test_subnVxVy_vf : (run 0x8F17 ((s0.setV 0xF 0x10).setV 1 5)).getV 0xF = 0x00 ∧
    (run 0x8F17 (resultLast ((s0.setV 0xF 0x10).setV 1 5))).getV 0xF = 0xF5 := by decide

/-- V33. -/
theorem test_shlVx : (run 0x800E (s0.setV 0 0x81)).getV 0 = 2 ∧
    (run 0x800E (s0.setV 0 0x81)).getV 0xF = 1 := by decide

/-- V38. -/
theorem test_shlVx_vf : (run 0x8F0E (s0.setV 0xF 0x81)).getV 0xF = 0x01 ∧
    (run 0x8F0E (resultLast (s0.setV 0xF 0x81))).getV 0xF = 0x02 := by decide

/-- V41: one draw is taken. -/
theorem test_rnd : (run 0xC300 s0).rngIndex = 1 := by decide

/-! ## Index and memory -/

/-- V44. -/
theorem test_ldINnn : (run 0xA250 s0).i = 0x250 := by decide

/-- V45, V46. -/
theorem test_addIVx : (run 0xF41E ((s0.setI 0x300).setV 4 0x10)).i = 0x310 ∧
    (run 0xF41E ((s0.setI 0xFFFF).setV 4 1)).i = 0 := by decide

/-- V47. -/
theorem test_ldFVx : (run 0xF529 (s0.setV 5 0x0A)).i = 0x132 ∧
    (run 0xF529 (s0.setV 5 0xFF)).i = 0x5FB := by decide

/-- E5, V48. -/
theorem test_ldBVx : (run 0xF233 ((s0.setI 0x300).setV 2 0x7B)).bytesAt 0x300 3 = [1, 2, 3] ∧
    (run 0xF233 ((s0.setI 0x300).setV 2 0xFF)).bytesAt 0x300 3 = [2, 5, 5] := by decide

/-- V49. -/
theorem test_ldBVx_range :
    faultOf (run 0xF233 ((s0.setI 0xFFE).setV 2 0x7B)) = (.memRange, 0xF233, 0x1000, 0x200) ∧
    (run 0xF233 ((s0.setI 0xFFE).setV 2 0x7B)).bytesAt 0xFFE 2 = [0, 0] := by decide

/-- V53. -/
theorem test_ldMemVx :
    (run 0xF155 (((s0.setI 0x400).setV 0 1).setV 1 2 |>.setV 2 3)).bytesAt 0x400 3 = [1, 2, 0] := by
  decide

/-- V50, V51: the last byte at 0xFFF, and one past it. -/
theorem test_ldMemVx_range : (run 0xFF55 ((s0.setI 0xFF0).setV 0xF 9)).readByte 0xFFF = 9 ∧
    faultOf (run 0xFF55 (s0.setI 0xFF1)) = (.memRange, 0xFF55, 0x1000, 0x200) := by decide

/-- V52. -/
theorem test_ldVxMem : (run 0xF165 (bytes s0 0x300 [0x10, 0x11, 0x12] |>.setI 0x300)).getV 1 = 0x11 ∧
    (run 0xF165 (bytes s0 0x300 [0x10, 0x11, 0x12] |>.setI 0x300)).getV 2 = 0 ∧
    (run 0xF165 (bytes s0 0x300 [0x10, 0x11, 0x12] |>.setI 0x300)).i = 0x300 := by decide

/-! ## Keypad and timers -/

/-- V54, V55. -/
theorem test_skp : (run 0xE19E ((s0.setV 1 0xA).setKey 0xA true)).pc = 0x204 ∧
    (run 0xE19E (s0.setV 1 0xA)).pc = 0x202 := by decide

/-- V54, V55. -/
theorem test_sknp : (run 0xE1A1 ((s0.setV 1 0xA).setKey 0xA true)).pc = 0x202 ∧
    (run 0xE1A1 (s0.setV 1 0xA)).pc = 0x204 := by decide

/-- V56. -/
theorem test_skp_range :
    faultOf (run 0xE19E (s0.setV 1 0x10)) = (.keyRange, 0xE19E, 0x10, 0x200) := by decide

/-- V57, V58. -/
theorem test_ldVxK : (run 0xF50A ((s0.setKey 7 true).setKey 3 true)).getV 5 = 3 ∧
    (run 0xF50A (s0.setPc 0x210)).pc = 0x210 ∧
    (run 0xF50A (s0.setPc 0x210)).trace[0] = { addr := 0x210, op := 0xF50A, mn := .ldVxK } := by
  decide

/-- V60. -/
theorem test_ldVxDt : (run 0xF207 (s0.setDt 5)).getV 2 = 5 ∧ (run 0xF207 (s0.setDt 5)).dt = 5 := by
  decide

/-- V59. -/
theorem test_ldDtVx : (run 0xF215 (s0.setV 2 0x3C)).dt = 0x3C := by decide

/-- V61. -/
theorem test_ldStVx : (run 0xF218 (s0.setV 2 5)).st = 5 := by decide

/-! ## Faults, trace and transactions -/

/-- V22, V24: a fetch out of range records op 0 and the lowest bad address. -/
theorem test_fetch_range : faultOf (stateOf (step (s0.setPc 0x10FE))) = (.memRange, 0, 0x10FE, 0x10FE) ∧
    faultOf (stateOf (step (s0.setPc 0xFFF))) = (.memRange, 0, 0x1000, 0xFFF) := by decide

/-- V62, V66. -/
theorem test_tick : ((s0.setSt 1).tick).st = 0 ∧ ((s0.setSt 1).tick).dt = 0 ∧
    ((stateOf (step s0)).setDt 3).tick.dt = 2 := by decide

/-! ## Witnesses: states and operands that meet the hypotheses of the statements -/

/-- DecodeOfEncodeIsTheInstruction, at the largest count. -/
theorem witness_DecodeOfEncodeIsTheInstruction : (Instr.drw 0xF 0xF 15).wellFormed = true := rfl

/-- EncodeOfDecodeIsTheWord, with an ignored nibble that is not 0. -/
theorem witness_EncodeOfDecodeIsTheWord : decode 0x512F = .ok (.seVxVy 1 2 0xF) := rfl

/-- WordsDecodeExactlyByTheOpcodeMap. -/
theorem witness_WordsDecodeExactlyByTheOpcodeMap :
    Mnemonic.shr ∈ opcodeRows ∧ Mnemonic.shr.fits 0x8FF6 = true ∧
    decode 0x8FF6 = .ok (.shrVx 0xF 0xF) := by decide

/-- StepRunsTheDecodedInstruction, at the last word of memory. -/
theorem witness_StepRunsTheDecodedInstruction :
    let s := (bytes s0 0xFFE [0x00, 0xE0]).setPc 0xFFE
    s.fault.halted = false ∧ s.pc.toNat + 1 < memSize ∧
      decode (wordOfBytes (s.readByte s.pc.toNat) (s.readByte (s.pc.toNat + 1))) = .ok .cls := by decide

/-- FetchOutOfRangeFaults, at its boundary. -/
theorem witness_FetchOutOfRangeFaults : (s0.setPc 0xFFF).fault.halted = false ∧
    memSize ≤ (s0.setPc 0xFFF).pc.toNat + 1 := by decide

/-- UnimplementedWordFaults (V65). -/
theorem witness_UnimplementedWordFaults : s0.fault.halted = false ∧ s0.pc.toNat + 1 < memSize ∧
    wordOfBytes (s0.readByte s0.pc.toNat) (s0.readByte (s0.pc.toNat + 1)) = 0x0000 ∧
    decode 0x0000 = .error (.unimplemented 0x0000) := by decide

/-- VfOrderMattersOnlyForVfDestination: an ALU instruction with X ≠ F that answers a next state. -/
theorem witness_VfOrderMattersOnlyForVfDestination :
    (Instr.addVxVy 0 0xF).flagAluDest ≠ some Reg.vf ∧
    ∃ t, exec (.addVxVy 0 0xF) s0 = .next t := ⟨by decide, _, rfl⟩

/-- ResultAndFlag, in the statements of the flag-setting ALU instructions: X ≠ F, X = F under each
setting of `VF_ORDER`, and each flag condition on both sides of its boundary. -/
theorem witness_ResultAndFlag :
    (0 : Reg) ≠ Reg.vf ∧ s0.cfg.vfOrder = .flagLast ∧ (resultLast s0).cfg.vfOrder = .resultLast ∧
    (let s := (s0.setV 0 0xFF).setV 1 0x01
     (s.getV 0).toNat + (s.getV 1).toNat > 255 ∧ ¬ (s.getV 0).toNat + (s.getV 2).toNat > 255) ∧
    (let s := (s0.setV 0 5).setV 1 6
     (s.getV 0).toNat ≥ (s.getV 0).toNat ∧ ¬ (s.getV 0).toNat ≥ (s.getV 1).toNat) ∧
    (let s := (s0.setV 0 0x80).setV 1 0x7F
     (s.getV 0).toNat ≥ 128 ∧ ¬ (s.getV 1).toNat ≥ 128 ∧
      (s.getV 1).toNat % 2 = 1 ∧ ¬ (s.getV 0).toNat % 2 = 1) := by decide

/-- CallPushesTheAdvancedPc: both clauses, at 15, 0, 16 and 255. -/
theorem witness_CallPushesTheAdvancedPc :
    (withSp 15).sp.toNat = (15 : Fin 16).val ∧ (withSp 0).sp.toNat = (0 : Fin 16).val ∧
    (withSp 16).sp.toNat > 15 ∧ (withSp 255).sp.toNat > 15 := by decide

/-- ReturnPopsPc: both clauses, at 14, 255 (which wraps to slot 0), 15 and 254. -/
theorem witness_ReturnPopsPc :
    ((withSp 14).sp + 1).toNat = (15 : Fin 16).val ∧ ((withSp 255).sp + 1).toNat = (0 : Fin 16).val ∧
    ((withSp 15).sp + 1).toNat > 15 ∧ ((withSp 254).sp + 1).toNat > 15 := by decide

/-- CallThenReturnComesBack, at both ends. -/
theorem witness_CallThenReturnComesBack : (withSp 15).sp.toNat < 16 ∧ (withSp 0).sp.toNat < 16 := by
  decide

/-- KeySkips: the largest key, and the smallest value that is no key. -/
theorem witness_KeySkips : ((s0.setV 1 0xF).getV 1).toNat = (0xF : Reg).val ∧
    ((s0.setV 1 0x10).getV 1).toNat > 15 := by decide

/-- KeyWaitSpinsOrTakesTheLowestKey: no key, and keys 3 and 7 down with 3 the lowest. -/
theorem witness_KeyWaitSpinsOrTakesTheLowestKey :
    (∀ k : Reg, s0.keypad[k] = false) ∧
    (let s := (s0.setKey 7 true).setKey 3 true
     s.keypad[(3 : Reg)] = true ∧ ∀ j : Reg, j < 3 → s.keypad[j] = false) ∧
    (let s := s0.setKey 15 true
     s.keypad[(15 : Reg)] = true ∧ ∀ j : Reg, j < 15 → s.keypad[j] = false) := by decide

/-- BcdStoresThreeDigits, at the top of memory. -/
theorem witness_BcdStoresThreeDigits : (s0.setI 0xFFD).i.toNat + 2 < memSize := by decide

/-- RegisterDumpStoresV0ToVx and RegisterLoadFillsV0ToVx, at the top of memory. -/
theorem witness_RegisterDumpAndLoad : (s0.setI 0xFF0).i.toNat + (0xF : Reg).val < memSize ∧
    (s0.setI 0xFFF).i.toNat + (0 : Reg).val < memSize := by decide

/-- DataAccessOutOfRangeFaults: the four clauses, each at the first address that is too high. -/
theorem witness_DataAccessOutOfRangeFaults : memSize ≤ (s0.setI 0xFFE).i.toNat + 2 ∧
    memSize ≤ (s0.setI 0xFF1).i.toNat + (0xF : Reg).val ∧
    memSize ≤ (s0.setI 0x1000).i.toNat + (0 : Reg).val ∧
    (1 ≤ 2 ∧ memSize < (s0.setI 0xFFF).i.toNat + 2) := by decide

/-- DumpThenLoadRestoresRegisters: the bytes loaded back from where they were stored. -/
theorem witness_DumpThenLoadRestoresRegisters :
    ∃ t, exec (.ldMemVx 1) ((s0.setI 0x300).setV 1 7) = .next t ∧
      ((s0.setI 0x300).setV 1 7).i.toNat + (1 : Reg).val < memSize ∧
      t.i.toNat + (1 : Reg).val < memSize ∧
      ∀ k : Reg, k ≤ 1 → t.readByte (t.i.toNat + k.val) =
        t.readByte (((s0.setI 0x300).setV 1 7).i.toNat + k.val) := ⟨_, rfl, by decide⟩

/-- StoredCodeIsFetched: V0, V1 spell 00E0. -/
theorem witness_StoredCodeIsFetched :
    let s := (s0.setI 0x300).setV 1 0xE0
    1 ≤ (1 : Reg).val ∧ s.i.toNat + (1 : Reg).val < memSize ∧ s.fault.halted = false ∧
      (∃ t, exec (.ldMemVx 1) s = .next t) ∧
      decode (wordOfBytes (s.getV 0) (s.getV 1)) = .ok .cls :=
  ⟨by decide, by decide, by decide, ⟨_, rfl⟩, by decide⟩

/-- DrawXorsTheSpriteAndReportsCollision: N = 0 with I past memory, and the last bytes of memory. -/
theorem witness_DrawXorsTheSpriteAndReportsCollision :
    ((0 : Nat) = 0 ∨ (s0.setI 0xFFFF).i.toNat + 0 ≤ memSize) ∧
    ((15 : Nat) = 0 ∨ (s0.setI 0xFF1).i.toNat + 15 ≤ memSize) := by decide

/-- DrawXorsTheSpriteAndReportsCollision, its collision clause: a lit pixel that a draw turns off. -/
theorem witness_DrawCollision :
    pixelAt (run 0xD001 (bytes s0 0x300 [0x80] |>.setI 0x300)).fb 0 0 = true ∧
    pixelAt (run 0xD001 (run 0xD001 (bytes s0 0x300 [0x80] |>.setI 0x300))).fb 0 0 = false := by decide

/-- DrawTwiceRestoresTheFramebuffer. -/
theorem witness_DrawTwiceRestoresTheFramebuffer : (0 : Reg) ≠ Reg.vf ∧ (0xE : Reg) ≠ Reg.vf ∧
    ((5 : Nat) = 0 ∨ (s0.setI 0x100).i.toNat + 5 ≤ memSize) := by decide

/-- OnlyTheListedInstructionsWriteRegisters: a flag write through the VF of an 8XY4. -/
theorem witness_OnlyTheListedInstructionsWriteRegisters :
    ∃ t, exec (.addVxVy 0 1) ((s0.setV 0 0xF0).setV 1 0x20) = .next t ∧
      t.getV 0xF ≠ ((s0.setV 0 0xF0).setV 1 0x20).getV 0xF := ⟨_, rfl, by decide⟩

/-- OnlyThreeInstructionsChangeTheIndex. -/
theorem witness_OnlyThreeInstructionsChangeTheIndex :
    ∃ t, exec (.ldINnn 0x250) s0 = .next t ∧ t.i ≠ s0.i := ⟨_, rfl, by decide⟩

/-- OtherStateIsWrittenOnlyByItsInstructions: CALL, and a store of FX33. -/
theorem witness_OtherStateIsWrittenOnlyByItsInstructions :
    (∃ t, exec (.call 0x210) s0 = .next t ∧ t.stack ≠ s0.stack ∧ t.sp ≠ s0.sp) ∧
    (∃ t, exec (.ldBVx 2) ((s0.setI 0xFFD).setV 2 7) = .next t ∧
      t.readByte 0xFFF ≠ ((s0.setI 0xFFD).setV 2 7).readByte 0xFFF) ∧
    (∃ t, exec (.ldDtVx 2) (s0.setV 2 7) = .next t ∧ t.dt ≠ (s0.setV 2 7).dt) ∧
    (∃ t, exec (.ldStVx 2) (s0.setV 2 7) = .next t ∧ t.st ≠ (s0.setV 2 7).st) ∧
    (∃ t, exec (.drw 0 0 1) (s0.setI 0x100) = .next t ∧ t.fb ≠ (s0.setI 0x100).fb) ∧
    (∃ t, exec (.rnd 0 0) s0 = .next t ∧ t.rngIndex ≠ s0.rngIndex) :=
  ⟨⟨_, rfl, by decide⟩, ⟨_, rfl, by decide⟩, ⟨_, rfl, by decide⟩, ⟨_, rfl, by decide⟩,
    ⟨_, rfl, by decide⟩, ⟨_, rfl, by decide⟩⟩

/-- TraceSoundAndRomNeverInfluenceAStep: two states that differ in ST and the trace. -/
theorem witness_TraceSoundAndRomNeverInfluenceAStep :
    let s := (s0.setSt 5).traceAppend 0x200 0x00E0 .cls
    s.withoutUnread = s0.withoutUnread ∧ s ≠ s0 := by decide

/-- EveryStepKeepsTheInvariant: reset, and the halted state its step answers. -/
theorem witness_EveryStepKeepsTheInvariant :
    s0.Inv ∧ (∃ t, step s0 = .next t ∧ t.Inv ∧ t.fault.halted = true) :=
  ⟨by decide, _, rfl, by decide⟩

/-- EveryStepKeepsTheTraceCoherent, with a record in the trace. -/
theorem witness_EveryStepKeepsTheTraceCoherent :
    (run 0x00E0 s0).TraceInv ∧ (run 0x00E0 s0).tpos = 1 ∧ ∃ t, step (run 0x00E0 s0) = .next t :=
  ⟨by decide, by decide, _, rfl⟩

/-- EveryTransactionSequenceKeepsTheInvariant: a block never loaded, an INIT, a STEP and a TICK. -/
theorem witness_EveryTransactionSequenceKeepsTheInvariant :
    (Device.unloaded Config.default 0).Inv ∧
    ∃ d, transactAll (.unloaded Config.default 0) [.init [0x00, 0xE0], .step, .tick] = .next d :=
  ⟨trivial, _, rfl⟩

/-- HaltedBlock: the halted state that the empty program reaches, and the longest program. -/
theorem witness_HaltedBlock : (stateOf (step s0)).fault.halted = true ∧
    (stateOf (step s0)).rom.length ≤ progMax ∧
    (List.replicate 3584 (0x00 : Byte)).length ≤ progMax := ⟨by decide, by decide, by rw [List.length_replicate]⟩

/-- TickDecrementsNonzeroTimers: a timer at 0 and one above it. -/
theorem witness_TickDecrementsNonzeroTimers : (s0.setSt 1).st ≠ 0 ∧ (s0.setSt 1).dt = 0 ∧
    (s0.setDt 255).dt ≠ 0 ∧ (s0.setDt 255).st = 0 := by decide

/-- InitLeavesTheResetState, for a block never loaded and for a loaded one. -/
theorem witness_InitLeavesTheResetState :
    (Device.unloaded Config.default 7).holds Config.default 7 ∧
    (Device.loaded s0).holds Config.default 0 ∧
    (List.replicate 3584 (0xAA : Byte)).length ≤ progMax := ⟨⟨rfl, rfl⟩, ⟨rfl, rfl⟩, by rw [List.length_replicate]⟩

/-- OversizedProgramIsRejected, one byte too long (V67). -/
theorem witness_OversizedProgramIsRejected :
    progMax < (List.replicate 3585 (0x00 : Byte)).length := by
  rw [List.length_replicate]; decide

/-- ResetRerunsInitFromRomImage. -/
theorem witness_ResetRerunsInitFromRomImage :
    (initState Config.default 0 [0x00, 0xE0]).rom.length ≤ progMax := by decide

/-- TransactionsBeforeInitAreRefused. -/
theorem witness_TransactionsBeforeInitAreRefused : ∀ p, Transaction.step ≠ .init p := by
  intro p h; cases h

/-- IdleStepChangesOnlyTheTrace: 1FFE at 0xFFE, the highest idle address. -/
theorem witness_IdleStepChangesOnlyTheTrace :
    let s := (bytes s0 0xFFE [0x1F, 0xFE]).setPc 0xFFE
    s.idle = true ∧ s.fault.halted = false := by decide

end Sys2Proof.Tests
end

/-! # The state's frame, its invariants and what no instruction reads (spec/10_state.md)

`exec_cases` says once what every instruction can do: complete within the writers tables, keeping
memory canonical and SP legal, or raise a fault with the detail R118 gives it.  The frame statements
and both invariants are read off it.  Noninterference compares a state with the same state without
its unread part. -/

namespace Sys2Proof

/-! ## The word of a decoded instruction (spec/30_encoding.md R55, R61) -/

theorem encodeNNN_of_fields {w : Word} {op : Nibble} (hop : (fieldOp w).toNat = op.toNat) :
    encodeNNN op (fieldNNN w) = w := by
  rw [← BitVec.eq_of_toNat_eq hop, encodeNNN_fields]

theorem encodeXNN_of_fields {w : Word} {op : Nibble} {nn : Byte}
    (hop : (fieldOp w).toNat = op.toNat) (hnn : (fieldNN w).toNat = nn.toNat) :
    encodeXNN op (fieldX w) nn = w := by
  rw [← BitVec.eq_of_toNat_eq hop, ← BitVec.eq_of_toNat_eq hnn, encodeXNN_fields]

theorem encodeXYN_of_fields {w : Word} {op n : Nibble} (hop : (fieldOp w).toNat = op.toNat)
    (hn : (fieldN w).toNat = n.toNat) : encodeXYN op (fieldX w) (fieldYBits w) n = w := by
  rw [← BitVec.eq_of_toNat_eq hop, ← BitVec.eq_of_toNat_eq hn, encodeXYN_fields]

theorem encode_of_decodeFamily0 {w : Word} {i : Instr} (h : decodeFamily0 w = .ok i) :
    encode i = w := by
  unfold decodeFamily0 at h
  split at h
  · next hw => cases h; exact hw.symm
  · split at h
    · next hw => cases h; exact hw.symm
    · cases h

theorem encode_of_decodeFamily8 {w : Word} {i : Instr} (hop : (fieldOp w).toNat = 0x8)
    (h : decodeFamily8 w = .ok i) : encode i = w := by
  unfold decodeFamily8 at h
  split at h <;> cases h <;> exact encodeXYN_of_fields hop ‹_›

theorem encode_of_decodeFamilyE {w : Word} {i : Instr} (hop : (fieldOp w).toNat = 0xE)
    (h : decodeFamilyE w = .ok i) : encode i = w := by
  unfold decodeFamilyE at h
  split at h <;> cases h <;> exact encodeXNN_of_fields hop ‹_›

theorem encode_of_decodeFamilyF {w : Word} {i : Instr} (hop : (fieldOp w).toNat = 0xF)
    (h : decodeFamilyF w = .ok i) : encode i = w := by
  unfold decodeFamilyF at h
  split at h <;> cases h <;> exact encodeXNN_of_fields hop ‹_›

/-- The word a fetched instruction came from is the word a trace or fault record gives it: the
ignored bits are operands of the instruction (R31, R60). -/
theorem encode_of_decode {w : Word} {i : Instr} (h : decode w = .ok i) : encode i = w := by
  unfold decode at h
  split at h
  · exact encode_of_decodeFamily0 h
  · next hop => cases h; exact encodeNNN_of_fields hop
  · next hop => cases h; exact encodeNNN_of_fields hop
  · next hop => cases h; exact encodeXNN_of_fields hop rfl
  · next hop => cases h; exact encodeXNN_of_fields hop rfl
  · next hop => cases h; exact encodeXYN_of_fields hop rfl
  · next hop => cases h; exact encodeXNN_of_fields hop rfl
  · next hop => cases h; exact encodeXNN_of_fields hop rfl
  · next hop => exact encode_of_decodeFamily8 hop h
  · next hop => cases h; exact encodeXYN_of_fields hop rfl
  · next hop => cases h; exact encodeNNN_of_fields hop
  · next hop => cases h; exact encodeNNN_of_fields hop
  · next hop => cases h; exact encodeXNN_of_fields hop rfl
  · next hop => cases h; exact encodeXYN_of_fields hop (by simp)
  · next hop => exact encode_of_decodeFamilyE hop h
  · next hop => exact encode_of_decodeFamilyF hop h
  · cases h

end Sys2Proof

namespace Sys2Proof.Machine

/-! ## What an instruction's handler may change -/

/-- The writers tables in one (R17, R19, R23, R26 to R29, R34, R35, R40), with the parts any
instruction may change: PC, the trace and FAULT. -/
def mayWrite (i : Instr) (s : State) : Part → Prop
  | .reg r => i.writesReg r
  | .index => i.mnemonic = .ldINnn ∨ i.mnemonic = .addIVx ∨ i.mnemonic = .ldFVx
  | .pc | .trace | .fault => True
  | .sp => i.mnemonic = .call ∨ i.mnemonic = .ret
  | .slot _ => i.mnemonic = .call
  | .dt => i.mnemonic = .ldDtVx
  | .st => i.mnemonic = .ldStVx
  | .pixel _ _ => i.mnemonic = .cls ∨ i.mnemonic = .drw
  | .byte a => s.i.toNat ≤ a ∧ a < s.i.toNat + i.storedBytes ∧ a < memSize
  | .draws => i.mnemonic = .rnd
  | .keypad | .rom | .params => False

theorem State.SameBut.refl (s : State) (may : Part → Prop) : s.SameBut s may where
  regs _ _ := rfl
  index _ := rfl
  pc _ := rfl
  sp _ := rfl
  slots _ _ := rfl
  dt _ := rfl
  st _ := rfl
  pixels _ _ _ := rfl
  keypad _ := rfl
  bytes _ _ := rfl
  trace _ := ⟨rfl, rfl⟩
  fault _ := rfl
  rom _ := rfl
  params _ := rfl
  draws _ := rfl

/-- `u` is what the handler of `i` may make of `s`: it keeps to the writers tables, leaves the trace
and FAULT to the handler wrapper, and keeps memory canonical and SP legal. -/
structure Ran (i : Instr) (s u : State) : Prop extends State.SameBut s u (mayWrite i s) where
  traceKept : u.trace = s.trace
  faultKept : u.fault = s.fault
  memWf : Memory.wf s.cfg.font s.mem = true → Memory.wf u.cfg.font u.mem = true
  spLegal : spLegal s.sp → spLegal u.sp

namespace Ran

variable {i : Instr} {s u : State}

/-! One rule per update of the state: a handler that has run may go on with it. -/

theorem start : Ran i s s.advancePc :=
  { State.SameBut.refl s (mayWrite i s) with
    pc := fun hn => absurd trivial hn
    traceKept := rfl
    faultKept := rfl
    memWf := id
    spLegal := id }

theorem setPc (h : Ran i s u) (w : Word) : Ran i s (u.setPc w) :=
  { h with pc := fun hn => absurd trivial hn }

theorem skipIf (h : Ran i s u) (c : Bool) : Ran i s (u.skipIf c) := by
  cases c
  · exact h
  · exact h.setPc _

theorem setV (h : Ran i s u) {x : Reg} (b : Byte) (hx : i.writesReg x) : Ran i s (u.setV x b) :=
  { h with
    regs := fun r hr => by
      have hne : r ≠ x := by rintro rfl; exact hr hx
      exact (State.setV_getV_ne u b hne).trans (h.regs r hr) }

theorem writeResultAndFlag (h : Ran i s u) {x : Reg} (a : AluResult) (hx : i.writesReg x)
    (hf : i.writesReg Reg.vf) : Ran i s (u.writeResultAndFlag x a) := by
  unfold State.writeResultAndFlag
  split
  · exact (h.setV _ hx).setV _ hf
  · exact (h.setV _ hf).setV _ hx

theorem loadVs (h : Ran i s u) (bs : List Byte)
    (hr : ∀ r : Reg, r.val < bs.length → i.writesReg r) : Ran i s (u.setVs (loadFrom s.v 0 bs)) :=
  { h with
    regs := fun r hn => by
      have hlen : ¬ (0 ≤ r.val ∧ r.val < 0 + bs.length) := fun hlt => hn (hr r (by omega))
      exact (loadFrom_getElem s.v 0 bs r r.isLt).trans (dif_neg hlen) }

theorem setI (h : Ran i s u) (w : Word) (hi : mayWrite i s .index) : Ran i s (u.setI w) :=
  { h with index := fun hn => absurd hi hn }

theorem setDt (h : Ran i s u) (b : Byte) (hi : mayWrite i s .dt) : Ran i s (u.setDt b) :=
  { h with dt := fun hn => absurd hi hn }

theorem setSt (h : Ran i s u) (b : Byte) (hi : mayWrite i s .st) : Ran i s (u.setSt b) :=
  { h with st := fun hn => absurd hi hn }

theorem setFb (h : Ran i s u) (fb : Framebuffer) (hi : ∀ y x, mayWrite i s (.pixel y x)) :
    Ran i s (u.setFb fb) :=
  { h with pixels := fun y x hn => absurd (hi y x) hn }

theorem takeDraw (h : Ran i s u) (hi : i.mnemonic = .rnd) : Ran i s u.takeDraw :=
  { h with draws := fun hn => absurd hi hn }

theorem pushed (h : Ran i s u) (w : Word) (hi : i.mnemonic = .call) (hsp : u.sp.toNat < 16) :
    Ran i s (u.pushed w) :=
  { h with
    slots := fun _ hn => absurd hi hn
    sp := fun hn => absurd (.inl hi) hn
    spLegal := fun _ => by
      show (u.sp - 1).toNat < 16 ∨ u.sp - 1 = 255
      bv_omega }

theorem setSp (h : Ran i s u) {b : Byte} (hi : mayWrite i s .sp) (hb : b.toNat < 16) :
    Ran i s (u.setSp b) :=
  { h with
    sp := fun hn => absurd hi hn
    spLegal := fun _ => .inl hb }

theorem storeBytes (h : Ran i s u) {bs : List Byte} (hlen : bs.length = i.storedBytes)
    (hle : s.i.toNat + bs.length ≤ memSize) : Ran i s (u.storeBytes s.i.toNat bs) :=
  { h with
    bytes := fun a hn => by
      have hout : ¬ (s.i.toNat ≤ a ∧ a < s.i.toNat + bs.length) := fun ⟨hlo, hhi⟩ =>
        hn ⟨hlo, hlen ▸ hhi, by omega⟩
      rw [State.storeBytes_readByte, dif_neg hout]
      exact h.bytes a hn
    memWf := fun hw => State.storeBytes_wf u hle (h.memWf hw) }

end Ran

/-! ## What an instruction can do -/

/-- A fault raised in a step from `s` carries the detail R118 gives its cause; `op` is the word its
record holds. -/
def Fault.Justified (s : State) (op : Word) : Fault → Prop
  | .unimplemented w => w = op ∧ decode w = .error (.unimplemented w)
  | .memRange a => memSize ≤ a ∧ a < 2 ^ 16
  | .stackOverflow sp => sp = s.sp ∧ 16 ≤ sp.toNat
  | .stackUnderflow sp => sp = s.sp ∧ 16 ≤ (sp + 1).toNat
  | .keyRange vx => 16 ≤ vx.toNat

/-- A range check that fails at a 16-bit address names an address of 4096 or above that fits 16
bits (R41). -/
theorem justified_memRange (s : State) (op a : Word) :
    (Fault.memRange (max a.toNat memSize)).Justified s op :=
  ⟨Nat.le_max_right _ _, Nat.max_lt.2 ⟨a.isLt, by decide⟩⟩

/-- Everything an instruction can do within a step: its handler completes within the writers tables,
or it raises a fault with the detail of its cause. -/
theorem exec_cases (i : Instr) (s : State) :
    (∃ u, exec i s = completed i s u ∧ Ran i s u) ∨
    (∃ f, exec i s = faulted i s f ∧ f.Justified s (encode i)) := by
  cases i with
  | cls => exact .inl ⟨_, exec_cls s, Ran.start.setFb _ fun _ _ => .inl rfl⟩
  | ret =>
    by_cases h : (s.sp + 1).toNat < 16
    · exact .inl ⟨_, exec_ret_ok s h, (Ran.start.setSp (.inr rfl) h).setPc _⟩
    · exact .inr ⟨_, exec_ret_error s (Nat.not_lt.1 h), rfl, Nat.not_lt.1 h⟩
  | jp nnn => exact .inl ⟨_, exec_jp nnn s, Ran.start.setPc _⟩
  | call nnn =>
    by_cases h : s.sp.toNat < 16
    · exact .inl ⟨_, exec_call_ok nnn s h, (Ran.start.pushed _ rfl h).setPc _⟩
    · exact .inr ⟨_, exec_call_error nnn s (Nat.not_lt.1 h), rfl, Nat.not_lt.1 h⟩
  | seVxNn x nn => exact .inl ⟨_, exec_seVxNn x nn s, Ran.start.skipIf _⟩
  | sneVxNn x nn => exact .inl ⟨_, exec_sneVxNn x nn s, Ran.start.skipIf _⟩
  | seVxVy x y ign => exact .inl ⟨_, exec_seVxVy x y ign s, Ran.start.skipIf _⟩
  | ldVxNn x nn => exact .inl ⟨_, exec_ldVxNn x nn s, Ran.start.setV _ rfl⟩
  | addVxNn x nn => exact .inl ⟨_, exec_addVxNn x nn s, Ran.start.setV _ rfl⟩
  | ldVxVy x y => exact .inl ⟨_, exec_ldVxVy x y s, Ran.start.setV _ rfl⟩
  | orVxVy x y => exact .inl ⟨_, exec_orVxVy x y s, Ran.start.setV _ rfl⟩
  | andVxVy x y => exact .inl ⟨_, exec_andVxVy x y s, Ran.start.setV _ rfl⟩
  | xorVxVy x y => exact .inl ⟨_, exec_xorVxVy x y s, Ran.start.setV _ rfl⟩
  | addVxVy x y =>
    exact .inl ⟨_, exec_addVxVy x y s, Ran.start.writeResultAndFlag _ (.inl rfl) (.inr rfl)⟩
  | subVxVy x y =>
    exact .inl ⟨_, exec_subVxVy x y s, Ran.start.writeResultAndFlag _ (.inl rfl) (.inr rfl)⟩
  | shrVx x ign =>
    exact .inl ⟨_, exec_shrVx x ign s, Ran.start.writeResultAndFlag _ (.inl rfl) (.inr rfl)⟩
  | subnVxVy x y =>
    exact .inl ⟨_, exec_subnVxVy x y s, Ran.start.writeResultAndFlag _ (.inl rfl) (.inr rfl)⟩
  | shlVx x ign =>
    exact .inl ⟨_, exec_shlVx x ign s, Ran.start.writeResultAndFlag _ (.inl rfl) (.inr rfl)⟩
  | sneVxVy x y ign => exact .inl ⟨_, exec_sneVxVy x y ign s, Ran.start.skipIf _⟩
  | ldINnn nnn => exact .inl ⟨_, exec_ldINnn nnn s, Ran.start.setI _ (.inl rfl)⟩
  | jpV0 nnn => exact .inl ⟨_, exec_jpV0 nnn s, Ran.start.setPc _⟩
  | rnd x nn => exact .inl ⟨_, exec_rnd x nn s, (Ran.start.takeDraw rfl).setV _ rfl⟩
  | drw x y n =>
    by_cases h : n = 0 ∨ s.i.toNat + n ≤ memSize
    · exact .inl ⟨_, exec_drw_ok x y n s h,
        (Ran.start.setFb _ fun _ _ => .inr rfl).setV _ rfl⟩
    · obtain ⟨h0, hlt⟩ := not_or.1 h
      exact .inr ⟨_, exec_drw_error x y n s h0 (Nat.not_le.1 hlt), justified_memRange s _ s.i⟩
  | skp x =>
    by_cases h : (s.getV x).toNat < 16
    · exact .inl ⟨_, exec_skp_ok x s h, Ran.start.skipIf _⟩
    · exact .inr ⟨_, exec_skp_error x s (Nat.not_lt.1 h), Nat.not_lt.1 h⟩
  | sknp x =>
    by_cases h : (s.getV x).toNat < 16
    · exact .inl ⟨_, exec_sknp_ok x s h, Ran.start.skipIf _⟩
    · exact .inr ⟨_, exec_sknp_error x s (Nat.not_lt.1 h), Nat.not_lt.1 h⟩
  | ldVxDt x => exact .inl ⟨_, exec_ldVxDt x s, Ran.start.setV _ rfl⟩
  | ldVxK x =>
    cases hk : s.lowestKey with
    | none =>
      exact .inl ⟨_, exec_ldVxK_none x s ((State.lowestKey_none s).1 hk), Ran.start.setPc _⟩
    | some n =>
      obtain ⟨k, -, hdown, hlow⟩ := (State.lowestKey_some s n).1 hk
      exact .inl ⟨_, exec_ldVxK_some x k s hdown hlow, Ran.start.setV _ rfl⟩
  | ldDtVx x => exact .inl ⟨_, exec_ldDtVx x s, Ran.start.setDt _ rfl⟩
  | ldStVx x => exact .inl ⟨_, exec_ldStVx x s, Ran.start.setSt _ rfl⟩
  | addIVx x => exact .inl ⟨_, exec_addIVx x s, Ran.start.setI _ (.inr (.inl rfl))⟩
  | ldFVx x => exact .inl ⟨_, exec_ldFVx x s, Ran.start.setI _ (.inr (.inr rfl))⟩
  | ldBVx x =>
    by_cases h : s.i.toNat + 2 < memSize
    · exact .inl ⟨_, exec_ldBVx_ok x s h, Ran.start.storeBytes rfl h⟩
    · exact .inr ⟨_, exec_ldBVx_error x s (Nat.not_lt.1 h), justified_memRange s _ s.i⟩
  | ldMemVx x =>
    by_cases h : s.i.toNat + x.val < memSize
    · have hlen := State.dumpV_length s x
      exact .inl ⟨_, exec_ldMemVx_ok x s h, Ran.start.storeBytes hlen (by omega)⟩
    · exact .inr ⟨_, exec_ldMemVx_error x s (Nat.not_lt.1 h), justified_memRange s _ s.i⟩
  | ldVxMem x =>
    by_cases h : s.i.toNat + x.val < memSize
    · refine .inl ⟨_, exec_ldVxMem_ok x s h, Ran.start.loadVs _ fun r hr => ?_⟩
      rw [State.bytesAt_length] at hr
      exact Nat.le_of_lt_succ hr
    · exact .inr ⟨_, exec_ldVxMem_error x s (Nat.not_lt.1 h), justified_memRange s _ s.i⟩

/-! ## The frame of an instruction -/

/-- An instruction that completes or faults changes only what the tables let it. -/
theorem exec_sameBut {i : Instr} {s t : State} (h : exec i s = .next t) :
    s.SameBut t (mayWrite i s) := by
  rcases exec_cases i s with ⟨u, he, hu⟩ | ⟨f, he, -⟩
  · cases he.symm.trans h
    exact { hu.toSameBut with trace := fun hn => absurd trivial hn }
  · cases he.symm.trans h
    exact { State.SameBut.refl s _ with fault := fun hn => absurd trivial hn }

/-! ## The invariant -/

theorem takeFault_inv {s : State} {f : Fault} {op : Word} (hs : s.Inv) (hf : f.Justified s op) :
    (s.takeFault f op).Inv := by
  obtain ⟨hmem, hsp, -, -, hrom⟩ := hs
  refine ⟨hmem, hsp, ?_, fun _ => rfl, hrom⟩
  cases f with
  | unimplemented w =>
    obtain ⟨rfl, hd⟩ := hf
    simp [FaultRecord.coherent, Fault.cause, Fault.info, hd]
  | memRange a =>
    obtain ⟨hlo, hhi⟩ := hf
    have hinfo : (Fault.memRange a).info.toNat = a := Nat.mod_eq_of_lt hhi
    simpa [FaultRecord.coherent, Fault.cause, hinfo] using hlo
  | stackOverflow sp =>
    obtain ⟨rfl, hover⟩ := hf
    have : s.sp = 255 := hsp.resolve_left (Nat.not_lt.2 hover)
    simp [FaultRecord.coherent, Fault.cause, Fault.info, this]
  | stackUnderflow sp =>
    obtain ⟨rfl, hunder⟩ := hf
    have : s.sp = 15 := by
      rcases hsp with hlt | h255
      · bv_omega
      · rw [h255] at hunder; exact absurd hunder (by decide)
    simp [FaultRecord.coherent, Fault.cause, Fault.info, this]
  | keyRange vx =>
    have hinfo : (Fault.keyRange vx).info.toNat = vx.toNat :=
      BitVec.toNat_setWidth_of_le (by decide)
    have hlo : 15 < vx.toNat := hf
    simpa [FaultRecord.coherent, Fault.cause, hinfo, vx.isLt] using hlo

/-- A handler that ran on a state not halted keeps the invariant; the trace record appended after it
is no part of that. -/
theorem Ran.inv {i : Instr} {s u : State} (h : Ran i s u) (hs : s.Inv)
    (hrun : s.fault.halted = false) : u.Inv := by
  obtain ⟨hmem, hsp, hfault, -, hrom⟩ := hs
  refine ⟨h.memWf hmem, h.spLegal hsp, h.faultKept ▸ hfault, ?_, h.rom id ▸ hrom⟩
  intro hh
  rw [h.faultKept, hrun] at hh
  cases hh

/-! ## The trace -/

theorem coherent_of_decode {a w : Word} {i : Instr} (h : decode w = .ok i) :
    TraceRecord.coherent { addr := a, op := w, mn := i.mnemonic } = true := by
  simp [TraceRecord.coherent, h]

theorem traceAppend_traceInv {u : State} {a w : Word} {m : Mnemonic} (hu : u.TraceInv)
    (hr : TraceRecord.coherent { addr := a, op := w, mn := m } = true) :
    (u.traceAppend a w m).TraceInv := by
  intro k
  by_cases hk : u.tpos.val = k.val
  · simpa [hk] using hr
  · simpa [Vector.getElem_set_ne _ _ hk] using hu k

/-! ## A step, by what decides it (spec/30_encoding.md R67, R68)

The equations that `step_cases` is the inversion of. -/

section
variable {s : State}

theorem step_of_halted (h : s.fault.halted = true) : step s = .next s := by
  simp [step, h]

theorem step_of_pc_out_of_range (hrun : s.fault.halted = false) (hpc : memSize ≤ s.pc.toNat + 1) :
    step s = .next (s.takeFault (.memRange (max s.pc.toNat memSize)) 0) := by
  simp [step, hrun, State.fetchInstr, State.fetchWord_error s hpc]

theorem step_of_decode_error (hrun : s.fault.halted = false) (hpc : s.pc.toNat + 1 < memSize)
    {w : Word} (hw : w = wordOfBytes (s.readByte s.pc.toNat) (s.readByte (s.pc.toNat + 1)))
    (hd : decode w = .error (.unimplemented w)) :
    step s = .next (s.takeFault (.unimplemented w) w) := by
  simp [step, hrun, State.fetchInstr, State.fetchWord_ok s hpc, ← hw, hd]

theorem step_of_decode (hrun : s.fault.halted = false) (hpc : s.pc.toNat + 1 < memSize)
    {w : Word} (hw : w = wordOfBytes (s.readByte s.pc.toNat) (s.readByte (s.pc.toNat + 1)))
    {i : Instr} (hd : decode w = .ok i) : step s = exec i s := by
  simp [step, hrun, State.fetchInstr, State.fetchWord_ok s hpc, ← hw, hd]

end

/-! ## What no instruction reads (R27, R30, R35)

A state and the state without its unread part are run side by side: every read gives the same, and
every update commutes with taking the unread part out. -/

section
variable (s : State)

@[simp] theorem withoutUnread_getV (r : Reg) : s.withoutUnread.getV r = s.getV r := rfl
@[simp] theorem withoutUnread_keypad : s.withoutUnread.keypad = s.keypad := rfl
@[simp] theorem withoutUnread_readByte (a : Nat) : s.withoutUnread.readByte a = s.readByte a := rfl

@[simp] theorem withoutUnread_bytesAt (a n : Nat) :
    s.withoutUnread.bytesAt a n = s.bytesAt a n := by
  induction n generalizing a with
  | zero => rfl
  | succ n ih => simp [State.bytesAt, ih]

@[simp] theorem withoutUnread_traceAppend (a w : Word) (m : Mnemonic) :
    (s.traceAppend a w m).withoutUnread = s.withoutUnread := rfl

@[simp] theorem withoutUnread_advancePc :
    s.advancePc.withoutUnread = s.withoutUnread.advancePc := rfl

@[simp] theorem withoutUnread_withoutUnread : s.withoutUnread.withoutUnread = s.withoutUnread := rfl

@[simp] theorem withoutUnread_skipIf (c : Bool) :
    (s.skipIf c).withoutUnread = s.withoutUnread.skipIf c := by
  cases c <;> rfl

@[simp] theorem withoutUnread_writeResultAndFlag (x : Reg) (a : AluResult) :
    (s.writeResultAndFlag x a).withoutUnread = s.withoutUnread.writeResultAndFlag x a := by
  have ho : s.withoutUnread.cfg.vfOrder = s.cfg.vfOrder := rfl
  unfold State.writeResultAndFlag
  rw [ho]
  split <;> rfl

end

/-- Both outcomes are next states, which differ at most in their unread part. -/
def SameButUnread (o o' : Host.Outcome State Fault Refusal) : Prop :=
  ∃ t t', o = .next t ∧ o' = .next t' ∧ t.withoutUnread = t'.withoutUnread

/-- An instruction does the same to a state with and without its unread part. -/
theorem exec_sameButUnread (i : Instr) (s : State) :
    SameButUnread (exec i s) (exec i s.withoutUnread) := by
  cases i with
  | cls => exact ⟨_, _, exec_cls s, exec_cls _, rfl⟩
  | ret =>
    by_cases h : (s.sp + 1).toNat < 16
    · exact ⟨_, _, exec_ret_ok s h, exec_ret_ok s.withoutUnread h, rfl⟩
    · have h' := Nat.not_lt.1 h
      exact ⟨_, _, exec_ret_error s h', exec_ret_error s.withoutUnread h', rfl⟩
  | jp nnn => exact ⟨_, _, exec_jp nnn s, exec_jp nnn _, rfl⟩
  | call nnn =>
    by_cases h : s.sp.toNat < 16
    · exact ⟨_, _, exec_call_ok nnn s h, exec_call_ok nnn s.withoutUnread h, rfl⟩
    · have h' := Nat.not_lt.1 h
      exact ⟨_, _, exec_call_error nnn s h', exec_call_error nnn s.withoutUnread h', rfl⟩
  | seVxNn x nn => exact ⟨_, _, exec_seVxNn x nn s, exec_seVxNn x nn _, by simp⟩
  | sneVxNn x nn => exact ⟨_, _, exec_sneVxNn x nn s, exec_sneVxNn x nn _, by simp⟩
  | seVxVy x y ign => exact ⟨_, _, exec_seVxVy x y ign s, exec_seVxVy x y ign _, by simp⟩
  | ldVxNn x nn => exact ⟨_, _, exec_ldVxNn x nn s, exec_ldVxNn x nn _, rfl⟩
  | addVxNn x nn => exact ⟨_, _, exec_addVxNn x nn s, exec_addVxNn x nn _, rfl⟩
  | ldVxVy x y => exact ⟨_, _, exec_ldVxVy x y s, exec_ldVxVy x y _, rfl⟩
  | orVxVy x y => exact ⟨_, _, exec_orVxVy x y s, exec_orVxVy x y _, rfl⟩
  | andVxVy x y => exact ⟨_, _, exec_andVxVy x y s, exec_andVxVy x y _, rfl⟩
  | xorVxVy x y => exact ⟨_, _, exec_xorVxVy x y s, exec_xorVxVy x y _, rfl⟩
  | addVxVy x y => exact ⟨_, _, exec_addVxVy x y s, exec_addVxVy x y _, by simp⟩
  | subVxVy x y => exact ⟨_, _, exec_subVxVy x y s, exec_subVxVy x y _, by simp⟩
  | shrVx x ign => exact ⟨_, _, exec_shrVx x ign s, exec_shrVx x ign _, by simp⟩
  | subnVxVy x y => exact ⟨_, _, exec_subnVxVy x y s, exec_subnVxVy x y _, by simp⟩
  | shlVx x ign => exact ⟨_, _, exec_shlVx x ign s, exec_shlVx x ign _, by simp⟩
  | sneVxVy x y ign => exact ⟨_, _, exec_sneVxVy x y ign s, exec_sneVxVy x y ign _, by simp⟩
  | ldINnn nnn => exact ⟨_, _, exec_ldINnn nnn s, exec_ldINnn nnn _, rfl⟩
  | jpV0 nnn => exact ⟨_, _, exec_jpV0 nnn s, exec_jpV0 nnn _, rfl⟩
  | rnd x nn => exact ⟨_, _, exec_rnd x nn s, exec_rnd x nn _, rfl⟩
  | drw x y n =>
    by_cases h : n = 0 ∨ s.i.toNat + n ≤ memSize
    · refine ⟨_, _, exec_drw_ok x y n s h, exec_drw_ok x y n s.withoutUnread h, ?_⟩
      rw [withoutUnread_bytesAt]
      rfl
    · obtain ⟨h0, hlt⟩ := not_or.1 h
      have h' := Nat.not_le.1 hlt
      exact ⟨_, _, exec_drw_error x y n s h0 h', exec_drw_error x y n s.withoutUnread h0 h', rfl⟩
  | skp x =>
    by_cases h : (s.getV x).toNat < 16
    · exact ⟨_, _, exec_skp_ok x s h, exec_skp_ok x s.withoutUnread h, by simp⟩
    · have h' := Nat.not_lt.1 h
      exact ⟨_, _, exec_skp_error x s h', exec_skp_error x s.withoutUnread h', rfl⟩
  | sknp x =>
    by_cases h : (s.getV x).toNat < 16
    · exact ⟨_, _, exec_sknp_ok x s h, exec_sknp_ok x s.withoutUnread h, by simp⟩
    · have h' := Nat.not_lt.1 h
      exact ⟨_, _, exec_sknp_error x s h', exec_sknp_error x s.withoutUnread h', rfl⟩
  | ldVxDt x => exact ⟨_, _, exec_ldVxDt x s, exec_ldVxDt x _, rfl⟩
  | ldVxK x =>
    cases hk : s.lowestKey with
    | none =>
      have hup := (State.lowestKey_none s).1 hk
      exact ⟨_, _, exec_ldVxK_none x s hup, exec_ldVxK_none x s.withoutUnread hup, rfl⟩
    | some n =>
      obtain ⟨k, -, hdown, hlow⟩ := (State.lowestKey_some s n).1 hk
      exact ⟨_, _, exec_ldVxK_some x k s hdown hlow,
        exec_ldVxK_some x k s.withoutUnread hdown hlow, rfl⟩
  | ldDtVx x => exact ⟨_, _, exec_ldDtVx x s, exec_ldDtVx x _, rfl⟩
  | ldStVx x => exact ⟨_, _, exec_ldStVx x s, exec_ldStVx x _, rfl⟩
  | addIVx x => exact ⟨_, _, exec_addIVx x s, exec_addIVx x _, rfl⟩
  | ldFVx x => exact ⟨_, _, exec_ldFVx x s, exec_ldFVx x _, rfl⟩
  | ldBVx x =>
    by_cases h : s.i.toNat + 2 < memSize
    · exact ⟨_, _, exec_ldBVx_ok x s h, exec_ldBVx_ok x s.withoutUnread h, rfl⟩
    · have h' := Nat.not_lt.1 h
      exact ⟨_, _, exec_ldBVx_error x s h', exec_ldBVx_error x s.withoutUnread h', rfl⟩
  | ldMemVx x =>
    by_cases h : s.i.toNat + x.val < memSize
    · exact ⟨_, _, exec_ldMemVx_ok x s h, exec_ldMemVx_ok x s.withoutUnread h, rfl⟩
    · have h' := Nat.not_lt.1 h
      exact ⟨_, _, exec_ldMemVx_error x s h', exec_ldMemVx_error x s.withoutUnread h', rfl⟩
  | ldVxMem x =>
    by_cases h : s.i.toNat + x.val < memSize
    · refine ⟨_, _, exec_ldVxMem_ok x s h, exec_ldVxMem_ok x s.withoutUnread h, ?_⟩
      rw [withoutUnread_bytesAt]
      rfl
    · have h' := Nat.not_lt.1 h
      exact ⟨_, _, exec_ldVxMem_error x s h', exec_ldVxMem_error x s.withoutUnread h', rfl⟩

/-- So does a step: what decides it, FAULT, PC and the word at PC, stays in. -/
theorem step_sameButUnread (s : State) : SameButUnread (step s) (step s.withoutUnread) := by
  rcases step_cases s with ⟨hhalt, he⟩ | ⟨hrun, hpc, he⟩ |
    ⟨hrun, hpc, w, hw, ⟨hd, he⟩ | ⟨i, hd, he⟩⟩
  · exact ⟨_, _, he, step_of_halted (s := s.withoutUnread) hhalt, rfl⟩
  · exact ⟨_, _, he, step_of_pc_out_of_range (s := s.withoutUnread) hrun hpc, rfl⟩
  · exact ⟨_, _, he, step_of_decode_error (s := s.withoutUnread) hrun hpc hw hd, rfl⟩
  · rw [he, step_of_decode (s := s.withoutUnread) hrun hpc hw hd]
    exact exec_sameButUnread i s

end Sys2Proof.Machine

namespace Sys2Proof

open Machine

/-- Settles O39: the general registers' part of the frame of an instruction. -/
theorem onlyTheListedInstructionsWriteRegisters :
    Obligations.OnlyTheListedInstructionsWriteRegisters := by
  intro i s t r h hne
  exact not_imp_comm.1 ((exec_sameBut h).regs r) hne

/-- Settles O40: I's part of the frame of an instruction. -/
theorem onlyThreeInstructionsChangeTheIndex : Obligations.OnlyThreeInstructionsChangeTheIndex := by
  intro i s t h hne
  exact not_imp_comm.1 (exec_sameBut h).index hne

/-- Settles O41: the other parts of the frame of an instruction. -/
theorem otherStateIsWrittenOnlyByItsInstructions :
    Obligations.OtherStateIsWrittenOnlyByItsInstructions := by
  intro i s t h
  have hf := exec_sameBut h
  have stack (hn : i.mnemonic ≠ .call) : t.stack = s.stack :=
    Vector.ext fun k hk => hf.slots ⟨k, hk⟩ hn
  have fb (hn : ¬ (i.mnemonic = .cls ∨ i.mnemonic = .drw)) : t.fb = s.fb :=
    fb_ext fun y x => hf.pixels y x hn
  exact ⟨not_imp_comm.1 stack, not_imp_comm.1 hf.sp,
    not_imp_comm.1 hf.dt, not_imp_comm.1 hf.st, not_imp_comm.1 fb,
    not_imp_comm.1 hf.draws, fun a => not_imp_comm.1 (hf.bytes a),
    hf.keypad id, hf.rom id, hf.params id⟩

/-- Settles O44: a fault record is the one its cause calls for, and a completed instruction keeps
each piece of the invariant. -/
theorem everyStepKeepsTheInvariant : Obligations.EveryStepKeepsTheInvariant := by
  intro s t hs hstep
  rcases step_cases s with ⟨-, he⟩ | ⟨-, -, he⟩ | ⟨hrun, -, w, -, ⟨hd, he⟩ | ⟨i, -, he⟩⟩
  · cases he.symm.trans hstep
    exact hs
  · cases he.symm.trans hstep
    exact takeFault_inv hs (justified_memRange s 0 s.pc)
  · cases he.symm.trans hstep
    exact takeFault_inv hs ⟨rfl, hd⟩
  · rcases exec_cases i s with ⟨u, hu, hran⟩ | ⟨f, hu, hf⟩
    · cases (he.trans hu).symm.trans hstep
      exact hran.inv hs hrun
    · cases (he.trans hu).symm.trans hstep
      exact takeFault_inv hs hf

/-- Settles O45: the one record a step can append is of the fetched word, which is the word of the
instruction it decodes to. -/
theorem everyStepKeepsTheTraceCoherent : Obligations.EveryStepKeepsTheTraceCoherent := by
  intro s t hs hstep
  rcases step_cases s with ⟨-, he⟩ | ⟨-, -, he⟩ | ⟨-, -, w, -, ⟨-, he⟩ | ⟨i, hd, he⟩⟩
  · cases he.symm.trans hstep
    exact hs
  · cases he.symm.trans hstep
    exact hs
  · cases he.symm.trans hstep
    exact hs
  · rcases exec_cases i s with ⟨u, hu, hran⟩ | ⟨f, hu, -⟩
    · cases (he.trans hu).symm.trans hstep
      have hkept : u.TraceInv := fun k => hran.traceKept ▸ hs k
      exact traceAppend_traceInv hkept (coherent_of_decode (encode_of_decode hd ▸ hd))
    · cases (he.trans hu).symm.trans hstep
      exact hs

/-- Settles O42: both states step as the one state that they are without their unread part. -/
theorem traceSoundAndRomNeverInfluenceAStep :
    Obligations.TraceSoundAndRomNeverInfluenceAStep := by
  intro s s' heq
  obtain ⟨t, t₀, ht, ht₀, hsame⟩ := step_sameButUnread s
  obtain ⟨t', t₀', ht', ht₀', hsame'⟩ := step_sameButUnread s'
  have hstep : step s.withoutUnread = step s'.withoutUnread := congrArg step heq
  have h₀ : t₀ = t₀' := Host.Outcome.next.inj (ht₀.symm.trans (hstep.trans ht₀'))
  exact ⟨t, t', ht, ht', hsame.trans (h₀ ▸ hsame'.symm)⟩

end Sys2Proof

/-! # Data accesses that reach past memory, and code that a program stores (spec/20_memory.md) -/

namespace Sys2Proof.Machine

/-- The state an instruction's fault ends in has the fault recorded and nothing else changed (R129). -/
theorem faulted_of_exec {i : Instr} {s : State} {f : Fault} (h : exec i s = faulted i s f) :
    ∃ t, exec i s = .next t ∧ s.Faulted t f.cause (encode i) f.info :=
  ⟨_, h, rfl⟩

/-- The byte at the place of `k` in a range that V0..VX are stored in is Vk. -/
theorem State.storeBytes_dumpV_readByte (u s : State) (a : Nat) {x k : Reg} (hk : k ≤ x) :
    (u.storeBytes a (s.dumpV x)).readByte (a + k.val) = s.getV k := by
  have hlt : k.val < x.val + 1 := Nat.lt_succ_of_le hk
  have hin : a ≤ a + k.val ∧ a + k.val < a + (s.dumpV x).length := by
    rw [State.dumpV_length]
    omega
  rw [State.storeBytes_readByte, dif_pos hin]
  simpa only [Nat.add_sub_cancel_left] using State.dumpV_getElem s x k.val hlt

end Sys2Proof.Machine

namespace Sys2Proof

open Machine

/-- Settles O33: each of the four handlers fails its range check, with the lowest address of 4096 or
above. -/
theorem dataAccessOutOfRangeFaults : Obligations.DataAccessOutOfRangeFaults := by
  intro x y n s
  refine ⟨fun h => ?_, fun h => ?_, fun h => ?_, fun h1 h => ?_⟩
  · exact faulted_of_exec (exec_ldBVx_error x s h)
  · exact faulted_of_exec (exec_ldMemVx_error x s h)
  · exact faulted_of_exec (exec_ldVxMem_error x s h)
  · exact faulted_of_exec (exec_drw_error x y n s (Nat.ne_of_gt h1) h)

/-- Settles O35: the fetch at I reads back the V0 and V1 that were stored there. -/
theorem storedCodeIsFetched : Obligations.StoredCodeIsFetched := by
  intro x s t i hx hrange hrun hexec hd
  cases (exec_ldMemVx_ok x s hrange).symm.trans hexec
  have hlo := State.storeBytes_dumpV_readByte s.advancePc s s.i.toNat (Fin.zero_le x)
  have hhi := State.storeBytes_dumpV_readByte s.advancePc s s.i.toNat (k := 1) hx
  refine step_of_decode ?running ?inRange ?fetched hd
  case running => exact hrun
  case inRange =>
    show s.i.toNat + 1 < memSize
    omega
  case fetched => exact (congrArg₂ wordOfBytes hlo hhi).symm

end Sys2Proof

/-! # Encoding: decode and encode, and the STEP (spec/30_encoding.md)

Encode and decode are inverse to each other on well-formed instructions.  The masks of the opcode map
and the list of unimplemented words are two more descriptions of which words decode. -/

namespace Sys2Proof

/-! ## Decode of an encoded instruction (R54, R61) -/

/-- The count of DRW comes back modulo 16, well formed or not. -/
theorem decode_encode_drw (x y : Reg) (n : Nat) :
    decode (encode (.drw x y n)) = .ok (.drw x y (n % 16)) := by
  simp [encode, decode]

/-- Decode reads each operand back from the field that the instruction's format puts it in. -/
theorem decode_encode {i : Instr} (h : i.wellFormed = true) : decode (encode i) = .ok i := by
  cases i with
  | cls | ret => rfl
  | jp nnn | call nnn | ldINnn nnn | jpV0 nnn => simp [encode, decode]
  | seVxNn x nn | sneVxNn x nn | ldVxNn x nn | addVxNn x nn | rnd x nn => simp [encode, decode]
  | seVxVy x y ign | sneVxVy x y ign => simp [encode, decode]
  | drw x y n =>
    have hn : n % 16 = n := Nat.mod_eq_of_lt (of_decide_eq_true h)
    rw [decode_encode_drw, hn]
  | ldVxVy x y | orVxVy x y | andVxVy x y | xorVxVy x y | addVxVy x y | subVxVy x y
  | subnVxVy x y => simp [encode, decode, decodeFamily8]
  | shrVx x ign | shlVx x ign => simp [encode, decode, decodeFamily8]
  | skp x | sknp x => simp [encode, decode, decodeFamilyE]
  | ldVxDt x | ldVxK x | ldDtVx x | ldStVx x | addIVx x | ldFVx x | ldBVx x | ldMemVx x
  | ldVxMem x => simp [encode, decode, decodeFamilyF]

/-- Only the count of DRW has to be bounded, and decode reads it from four bits (R56). -/
theorem wellFormed_of_decode {w : Word} {i : Instr} (h : decode w = .ok i) :
    i.wellFormed = true := by
  cases i with
  | drw x y n =>
    rw [← encode_of_decode h, decode_encode_drw] at h
    have hn : n % 16 = n := by simpa using h
    exact decide_eq_true (Nat.mod_eq_iff_lt (by decide) |>.1 hn)
  | _ => rfl

/-! ## The rows of the opcode map (R62) -/

section
variable {w : Word}

theorem fieldOp_of_mask {op : Nibble} (h : w &&& 0xF000#16 = encodeNNN op 0) : fieldOp w = op := by
  rw [and_F000] at h
  simpa using congrArg fieldOp h

theorem encodeNNN_of_mask (op : Nibble) (h : w &&& 0xF000#16 = encodeNNN op 0) :
    encodeNNN op (fieldNNN w) = w := by
  rw [← fieldOp_of_mask h, encodeNNN_fields]

theorem encodeXNN_of_mask (op : Nibble) (h : w &&& 0xF000#16 = encodeNNN op 0) :
    encodeXNN op (fieldX w) (fieldNN w) = w := by
  rw [← fieldOp_of_mask h, encodeXNN_fields]

theorem encodeXYN_of_mask (op : Nibble) (h : w &&& 0xF000#16 = encodeNNN op 0) :
    encodeXYN op (fieldX w) (fieldYBits w) (fieldN w) = w := by
  rw [← fieldOp_of_mask h, encodeXYN_fields]

theorem encodeXY_of_mask (op n : Nibble) (h : w &&& 0xF00F#16 = encodeXYN op 0 0 n) :
    encodeXYN op (fieldX w) (fieldYBits w) n = w := by
  rw [and_F00F] at h
  have hop : fieldOp w = op := by simpa using congrArg fieldOp h
  have hn : fieldN w = n := by simpa using congrArg fieldN h
  rw [← hop, ← hn, encodeXYN_fields]

theorem encodeX_of_mask (op : Nibble) (nn : Byte) (h : w &&& 0xF0FF#16 = encodeXNN op 0 nn) :
    encodeXNN op (fieldX w) nn = w := by
  rw [and_F0FF] at h
  have hop : fieldOp w = op := by simpa using congrArg fieldOp h
  have hnn : fieldNN w = nn := by simpa using congrArg fieldNN h
  rw [← hop, ← hnn, encodeXNN_fields]

/-- A word that fits a row is the word of a well-formed instruction of that row: the row fixes the
bits that are no operand. -/
theorem exists_encode_of_fits {m : Mnemonic} (hm : m ∈ opcodeRows) (h : m.fits w = true) :
    ∃ i : Instr, i.wellFormed = true ∧ encode i = w ∧ i.mnemonic = m := by
  have hw : w &&& m.mask = m.pattern := eq_of_beq h
  cases m with
  | none => simp [opcodeRows] at hm
  | cls => exact ⟨.cls, rfl, (BitVec.and_allOnes.symm.trans hw).symm, rfl⟩
  | ret => exact ⟨.ret, rfl, (BitVec.and_allOnes.symm.trans hw).symm, rfl⟩
  | jp => exact ⟨.jp _, rfl, encodeNNN_of_mask 0x1 hw, rfl⟩
  | call => exact ⟨.call _, rfl, encodeNNN_of_mask 0x2 hw, rfl⟩
  | seVxNn => exact ⟨.seVxNn _ _, rfl, encodeXNN_of_mask 0x3 hw, rfl⟩
  | sneVxNn => exact ⟨.sneVxNn _ _, rfl, encodeXNN_of_mask 0x4 hw, rfl⟩
  | seVxVy => exact ⟨.seVxVy _ (fieldY w) _, rfl, encodeXYN_of_mask 0x5 hw, rfl⟩
  | ldVxNn => exact ⟨.ldVxNn _ _, rfl, encodeXNN_of_mask 0x6 hw, rfl⟩
  | addVxNn => exact ⟨.addVxNn _ _, rfl, encodeXNN_of_mask 0x7 hw, rfl⟩
  | ldVxVy => exact ⟨.ldVxVy _ (fieldY w), rfl, encodeXY_of_mask 0x8 0x0 hw, rfl⟩
  | or => exact ⟨.orVxVy _ (fieldY w), rfl, encodeXY_of_mask 0x8 0x1 hw, rfl⟩
  | and => exact ⟨.andVxVy _ (fieldY w), rfl, encodeXY_of_mask 0x8 0x2 hw, rfl⟩
  | xor => exact ⟨.xorVxVy _ (fieldY w), rfl, encodeXY_of_mask 0x8 0x3 hw, rfl⟩
  | addVxVy => exact ⟨.addVxVy _ (fieldY w), rfl, encodeXY_of_mask 0x8 0x4 hw, rfl⟩
  | sub => exact ⟨.subVxVy _ (fieldY w), rfl, encodeXY_of_mask 0x8 0x5 hw, rfl⟩
  | shr => exact ⟨.shrVx _ _, rfl, encodeXY_of_mask 0x8 0x6 hw, rfl⟩
  | subn => exact ⟨.subnVxVy _ (fieldY w), rfl, encodeXY_of_mask 0x8 0x7 hw, rfl⟩
  | shl => exact ⟨.shlVx _ _, rfl, encodeXY_of_mask 0x8 0xE hw, rfl⟩
  | sneVxVy => exact ⟨.sneVxVy _ (fieldY w) _, rfl, encodeXYN_of_mask 0x9 hw, rfl⟩
  | ldINnn => exact ⟨.ldINnn _, rfl, encodeNNN_of_mask 0xA hw, rfl⟩
  | jpV0 => exact ⟨.jpV0 _, rfl, encodeNNN_of_mask 0xB hw, rfl⟩
  | rnd => exact ⟨.rnd _ _, rfl, encodeXNN_of_mask 0xC hw, rfl⟩
  | drw =>
    have henc : encode (.drw (fieldX w) (fieldY w) (fieldN w).toNat) = w := by
      simpa [encode, regBits_fieldY] using encodeXYN_of_mask 0xD hw
    exact ⟨.drw _ _ _, decide_eq_true (fieldN w).isLt, henc, rfl⟩
  | skp => exact ⟨.skp _, rfl, encodeX_of_mask 0xE 0x9E hw, rfl⟩
  | sknp => exact ⟨.sknp _, rfl, encodeX_of_mask 0xE 0xA1 hw, rfl⟩
  | ldVxDt => exact ⟨.ldVxDt _, rfl, encodeX_of_mask 0xF 0x07 hw, rfl⟩
  | ldVxK => exact ⟨.ldVxK _, rfl, encodeX_of_mask 0xF 0x0A hw, rfl⟩
  | ldDtVx => exact ⟨.ldDtVx _, rfl, encodeX_of_mask 0xF 0x15 hw, rfl⟩
  | ldStVx => exact ⟨.ldStVx _, rfl, encodeX_of_mask 0xF 0x18 hw, rfl⟩
  | addIVx => exact ⟨.addIVx _, rfl, encodeX_of_mask 0xF 0x1E hw, rfl⟩
  | ldFVx => exact ⟨.ldFVx _, rfl, encodeX_of_mask 0xF 0x29 hw, rfl⟩
  | ldBVx => exact ⟨.ldBVx _, rfl, encodeX_of_mask 0xF 0x33 hw, rfl⟩
  | ldMemVx => exact ⟨.ldMemVx _, rfl, encodeX_of_mask 0xF 0x55 hw, rfl⟩
  | ldVxMem => exact ⟨.ldVxMem _, rfl, encodeX_of_mask 0xF 0x65 hw, rfl⟩

theorem fits_iff_decode {m : Mnemonic} (hm : m ∈ opcodeRows) :
    m.fits w = true ↔ ∃ i, decode w = .ok i ∧ i.mnemonic = m := by
  constructor
  · intro h
    obtain ⟨i, hwf, rfl, hi⟩ := exists_encode_of_fits hm h
    exact ⟨i, decode_encode hwf, hi⟩
  · rintro ⟨i, hd, rfl⟩
    rw [← encode_of_decode hd]
    exact beq_of_eq (Laws.EncodeMatchesRow.all i)

end

theorem mnemonic_mem_opcodeRows (i : Instr) : i.mnemonic ∈ opcodeRows := by
  cases i <;> simp [Instr.mnemonic, opcodeRows]

/-! ## The unimplemented words (R61) -/

section
variable (w : Word)

theorem fieldOp_toNat : (fieldOp w).toNat = w.toNat / 4096 := by
  rw [fieldOp, BitVec.extractLsb'_toNat, Nat.shiftRight_eq_div_pow]
  exact Nat.mod_eq_of_lt (by have := w.isLt; omega)

theorem fieldN_toNat : (fieldN w).toNat = w.toNat % 16 := by
  rw [fieldN, BitVec.extractLsb'_toNat, Nat.shiftRight_zero]

theorem fieldNN_toNat : (fieldNN w).toNat = w.toNat % 256 := by
  rw [fieldNN, BitVec.extractLsb'_toNat, Nat.shiftRight_zero]

theorem decodeFamily0_error_iff :
    decodeFamily0 w = .error (.unimplemented w) ↔ w ≠ 0x00E0 ∧ w ≠ 0x00EE := by
  unfold decodeFamily0
  split
  · next h => simp [h]
  · split
    · next h => simp [h]
    · next h0 h1 => simp [h0, h1]

theorem decodeFamily8_error_iff :
    decodeFamily8 w = .error (.unimplemented w) ↔
      (fieldN w).toNat ∈ [0x8, 0x9, 0xA, 0xB, 0xC, 0xD, 0xF] := by
  have hlt := (fieldN w).isLt
  unfold decodeFamily8
  generalize (fieldN w).toNat = n at *
  interval_cases n <;> simp

theorem decodeFamilyE_error_iff :
    decodeFamilyE w = .error (.unimplemented w) ↔ (fieldNN w).toNat ∉ [0x9E, 0xA1] := by
  unfold decodeFamilyE
  split <;> simp_all

theorem decodeFamilyF_error_iff :
    decodeFamilyF w = .error (.unimplemented w) ↔
      (fieldNN w).toNat ∉ [0x07, 0x0A, 0x15, 0x18, 0x1E, 0x29, 0x33, 0x55, 0x65] := by
  unfold decodeFamilyF
  split <;> simp_all

/-- Only families 0, 8, E and F have a second level that can refuse a word (R59). -/
theorem decode_error_iff :
    decode w = .error (.unimplemented w) ↔
      ((fieldOp w).toNat = 0x0 ∧ decodeFamily0 w = .error (.unimplemented w)) ∨
      ((fieldOp w).toNat = 0x8 ∧ decodeFamily8 w = .error (.unimplemented w)) ∨
      ((fieldOp w).toNat = 0xE ∧ decodeFamilyE w = .error (.unimplemented w)) ∨
      ((fieldOp w).toNat = 0xF ∧ decodeFamilyF w = .error (.unimplemented w)) := by
  have hlt := (fieldOp w).isLt
  unfold decode
  generalize (fieldOp w).toNat = op at *
  interval_cases op <;> simp

end

end Sys2Proof

namespace Sys2Proof.Machine

/-! ## What an instruction's handler leaves alone, and the fault its check raises (R70, R125) -/

/-- What no handler writes: the trace and FAULT, which are the handler wrapper's, and the keypad,
ROM_IMAGE and the parameters, which no instruction changes. -/
def State.handlerFrame (s : State) :
    Vector TraceRecord 16 × Fin 16 × FaultRecord × Vector Bool 16 × List Byte × Config :=
  (s.trace, s.tpos, s.fault, s.keypad, s.rom, s.cfg)

@[simp] theorem State.skipIf_handlerFrame (s : State) (c : Bool) :
    (s.skipIf c).handlerFrame = s.handlerFrame := by
  cases c <;> rfl

@[simp] theorem State.writeResultAndFlag_handlerFrame (s : State) (x : Reg) (a : AluResult) :
    (s.writeResultAndFlag x a).handlerFrame = s.handlerFrame := by
  unfold State.writeResultAndFlag
  split <;> rfl

theorem Fault.cause_ne_none (f : Fault) : f.cause ≠ .none := by
  cases f <;> exact Cause.noConfusion

/-- An instruction completes with its handler's frame kept, or raises the fault of its own check. -/
theorem exec_completes_or_ownCheck (i : Instr) (s : State) :
    (∃ u, exec i s = completed i s u ∧ u.handlerFrame = s.handlerFrame) ∨
    (∃ f, exec i s = faulted i s f ∧ f.cause = i.ownCheck) := by
  cases i with
  | ret =>
    rcases Nat.lt_or_ge (s.sp + 1).toNat 16 with h | h
    · exact .inl ⟨_, exec_ret_ok s h, rfl⟩
    · exact .inr ⟨_, exec_ret_error s h, rfl⟩
  | call nnn =>
    rcases Nat.lt_or_ge s.sp.toNat 16 with h | h
    · exact .inl ⟨_, exec_call_ok nnn s h, rfl⟩
    · exact .inr ⟨_, exec_call_error nnn s h, rfl⟩
  | drw x y n =>
    by_cases h : n = 0 ∨ s.i.toNat + n ≤ memSize
    · exact .inl ⟨_, exec_drw_ok x y n s h, rfl⟩
    · obtain ⟨h0, hlt⟩ := not_or.1 h
      exact .inr ⟨_, exec_drw_error x y n s h0 (Nat.not_le.1 hlt), rfl⟩
  | skp x =>
    rcases Nat.lt_or_ge (s.getV x).toNat 16 with h | h
    · exact .inl ⟨_, exec_skp_ok x s h, State.skipIf_handlerFrame _ _⟩
    · exact .inr ⟨_, exec_skp_error x s h, rfl⟩
  | sknp x =>
    rcases Nat.lt_or_ge (s.getV x).toNat 16 with h | h
    · exact .inl ⟨_, exec_sknp_ok x s h, State.skipIf_handlerFrame _ _⟩
    · exact .inr ⟨_, exec_sknp_error x s h, rfl⟩
  | ldBVx x =>
    rcases Nat.lt_or_ge (s.i.toNat + 2) memSize with h | h
    · exact .inl ⟨_, exec_ldBVx_ok x s h, rfl⟩
    · exact .inr ⟨_, exec_ldBVx_error x s h, rfl⟩
  | ldMemVx x =>
    rcases Nat.lt_or_ge (s.i.toNat + x.val) memSize with h | h
    · exact .inl ⟨_, exec_ldMemVx_ok x s h, rfl⟩
    · exact .inr ⟨_, exec_ldMemVx_error x s h, rfl⟩
  | ldVxMem x =>
    rcases Nat.lt_or_ge (s.i.toNat + x.val) memSize with h | h
    · exact .inl ⟨_, exec_ldVxMem_ok x s h, rfl⟩
    · exact .inr ⟨_, exec_ldVxMem_error x s h, rfl⟩
  | ldVxK x =>
    cases hk : s.lowestKey with
    | none => exact .inl ⟨_, exec_ldVxK_none x s ((State.lowestKey_none s).1 hk), rfl⟩
    | some n =>
      obtain ⟨k, -, hdown, hlow⟩ := (State.lowestKey_some s n).1 hk
      exact .inl ⟨_, exec_ldVxK_some x k s hdown hlow, rfl⟩
  | seVxNn | sneVxNn | seVxVy | sneVxVy => exact .inl ⟨_, rfl, State.skipIf_handlerFrame _ _⟩
  | addVxVy | subVxVy | shrVx | subnVxVy | shlVx =>
    exact .inl ⟨_, rfl, State.writeResultAndFlag_handlerFrame _ _ _⟩
  | _ => exact .inl ⟨_, rfl, rfl⟩

/-- Appending the record of an instruction to a kept trace is what R71 asks for. -/
theorem traced_traceAppend {i : Instr} {s u : State} (htrace : u.trace = s.trace)
    (htpos : u.tpos = s.tpos) : s.Traced (u.traceAppend s.pc (encode i) i.mnemonic) i := by
  simp [State.Traced, htrace, htpos]

end Sys2Proof.Machine

namespace Sys2Proof

open Machine

/-- Settles O1: decode reads back every field that encode wrote. -/
theorem decodeOfEncodeIsTheInstruction : Obligations.DecodeOfEncodeIsTheInstruction :=
  fun _ h => decode_encode h

/-- Settles O2: a word is made of the fields that decode reads from it. -/
theorem encodeOfDecodeIsTheWord : Obligations.EncodeOfDecodeIsTheWord :=
  fun _ _ h => ⟨wellFormed_of_decode h, encode_of_decode h⟩

/-- Settles O3: a word fits a row exactly when it is the word of an instruction of the row. -/
theorem wordsDecodeExactlyByTheOpcodeMap : Obligations.WordsDecodeExactlyByTheOpcodeMap :=
  ⟨rfl, fun _ _ hm => fits_iff_decode hm, fun _ i _ => mnemonic_mem_opcodeRows i⟩

/-- Settles O4: the four families that have a second level, one by one. -/
theorem unimplementedWordsAreExactlyTheListed :
    Obligations.UnimplementedWordsAreExactlyTheListed := by
  intro w
  rw [decode_error_iff, decodeFamily0_error_iff, decodeFamily8_error_iff, decodeFamilyE_error_iff,
    decodeFamilyF_error_iff, fieldOp_toNat, fieldN_toNat, fieldNN_toNat]

/-- Settles O5: each word is read by decode. -/
theorem sampleWordsDecode : Obligations.SampleWordsDecode :=
  ⟨rfl, rfl, rfl, rfl, rfl, rfl, rfl, rfl⟩

/-- Settles O6: the step fetches the word that decodes to the instruction. -/
theorem stepRunsTheDecodedInstruction : Obligations.StepRunsTheDecodedInstruction :=
  fun _ _ hrun hpc hd => ⟨wellFormed_of_decode hd, step_of_decode hrun hpc rfl hd⟩

/-- Settles O7: the fetch fails its range check. -/
theorem fetchOutOfRangeFaults : Obligations.FetchOutOfRangeFaults :=
  fun _ hrun hpc => ⟨_, step_of_pc_out_of_range hrun hpc, rfl⟩

/-- Settles O10: the handler wrapper adds the trace record to what the handler kept, or records the
fault of the instruction's own check. -/
theorem everyInstructionCompletesOrFaultsPrecisely :
    Obligations.EveryInstructionCompletesOrFaultsPrecisely := by
  intro i s
  rcases exec_completes_or_ownCheck i s with ⟨u, he, hkept⟩ | ⟨f, he, hcause⟩
  · simp only [State.handlerFrame, Prod.mk.injEq] at hkept
    obtain ⟨htrace, htpos, hrest⟩ := hkept
    exact ⟨_, he, .inl ⟨traced_traceAppend htrace htpos, hrest⟩⟩
  · refine ⟨_, he, .inr ⟨hcause ▸ f.cause_ne_none, f.info, ?_⟩⟩
    rw [← hcause]
    rfl

end Sys2Proof

/-! # Display (spec/40_display.md)

CLS and DRW are read off `exec_cls` and `exec_drw_ok`, a drawn sprite off `drawSprite_pixelAt` and
`drawSprite_hit`.  That a second DRW undoes the first follows from what one DRW does. -/

namespace Sys2Proof.Machine

/-! ## The frame of an update

A state that is as `s` but for the parts named stays so under an update of one of them. -/

section
variable {s u : State} {may : Part → Prop}

theorem State.SameBut.advancePc (h : s.SameBut u may) (hm : may .pc) : s.SameBut u.advancePc may :=
  { h with pc := fun hn => absurd hm hn }

theorem State.SameBut.setV (h : s.SameBut u may) {x : Reg} (b : Byte) (hm : may (.reg x)) :
    s.SameBut (u.setV x b) may :=
  { h with
    regs := fun r hn => by
      have hne : r ≠ x := by rintro rfl; exact hn hm
      exact (State.setV_getV_ne u b hne).trans (h.regs r hn) }

theorem State.SameBut.setFb (h : s.SameBut u may) (fb : Framebuffer)
    (hm : ∀ y x, may (.pixel y x)) : s.SameBut (u.setFb fb) may :=
  { h with pixels := fun y x hn => absurd (hm y x) hn }

theorem State.SameBut.traceAppend (h : s.SameBut u may) (a w : Word) (m : Mnemonic)
    (hm : may .trace) : s.SameBut (u.traceAppend a w m) may :=
  { h with trace := fun hn => absurd hm hn }

end

/-! ## The rows of a sprite (R74) -/

/-- The bytes that DRW reads at I are the sprite's rows. -/
theorem State.bytesAt_index (s : State) (n : Nat) : s.bytesAt s.i.toNat n = spriteRows s n := by
  apply List.ext_getElem
  · simp [spriteRows]
  · intro k hk _
    have hlt : k < n := by simpa using hk
    simpa [spriteRows] using s.bytesAt_getElem s.i.toNat n k hlt

/-- States with the same I and the same memory have the same sprite. -/
theorem spriteRows_congr {s t : State} (n : Nat) (hi : t.i = s.i)
    (hbytes : ∀ a, t.readByte a = s.readByte a) : spriteRows t n = spriteRows s n := by
  simp only [spriteRows, hi, hbytes]

/-! ## The collision (R78) -/

/-- A drawn sprite collides exactly when it turns a lit pixel off. -/
theorem drawSprite_hit_iff_pixel_off (fb : Framebuffer) (x0 y0 : Nat) (rows : List Byte) :
    (drawSprite fb x0 y0 rows).hit = true ↔
      ∃ r c, onScreen r c ∧ pixelAt fb r c = true ∧
        pixelAt (drawSprite fb x0 y0 rows).fb r c = false := by
  rw [drawSprite_hit]
  refine exists_congr fun r => exists_congr fun c => ?_
  rw [drawSprite_pixelAt]
  by_cases hs : onScreen r c
  · rw [decide_eq_true hs, Bool.true_and, and_iff_right hs]
    cases pixelAt fb r c <;> simp
  · simp [hs, pixelAt_off hs]

/-- A flag byte given by both of its cases is 1 in the one case only. -/
theorem iff_flag_set {p : Prop} {b : Byte} (hset : p → b = 0x01) (hclear : ¬ p → b = 0x00) :
    p ↔ b = 0x01 := by
  refine ⟨hset, fun hb => ?_⟩
  by_contra hp
  rw [hclear hp] at hb
  exact absurd hb (by decide)

end Sys2Proof.Machine

namespace Sys2Proof

open Machine

/-- Settles O36: CLS puts the blank framebuffer in place of the old one. -/
theorem clearDisplayBlanksEveryPixel : Obligations.ClearDisplayBlanksEveryPixel := by
  intro s
  refine ⟨rfl, _, exec_cls s, fun y x _ => pixelAt_blank y x, rfl, traced_traceAppend rfl rfl, ?_⟩
  refine State.SameBut.traceAppend ?_ _ _ _ (.inr (.inr rfl))
  refine State.SameBut.setFb ?_ _ fun y x => .inl ⟨y, x, rfl⟩
  exact State.SameBut.advancePc (.refl s _) (.inr (.inl rfl))

/-- Settles O37: DRW puts the drawn sprite's framebuffer in place of the old one and its collision
in VF. -/
theorem drawXorsTheSpriteAndReportsCollision :
    Obligations.DrawXorsTheSpriteAndReportsCollision := by
  intro x y n s hrange
  have he := exec_drw_ok x y n s hrange
  rw [State.bytesAt_index] at he
  have hhit := drawSprite_hit_iff_pixel_off s.fb (s.getV x).toNat (s.getV y).toNat (spriteRows s n)
  refine ⟨_, he, fun r c hs => ?pixels, fun hoff => ?collides, fun hoff => ?misses, rfl,
    traced_traceAppend rfl rfl, ?frame⟩
  case pixels => exact (drawSprite_pixelAt _ _ _ _ r c).trans (by simp [hs])
  case collides =>
    exact (State.setV_getV_self _ _ _).trans (congrArg flagByte (hhit.2 hoff))
  case misses =>
    exact (State.setV_getV_self _ _ _).trans
      (congrArg flagByte (Bool.eq_false_iff.2 (mt hhit.1 hoff)))
  case frame =>
    refine State.SameBut.traceAppend ?_ _ _ _ (.inr (.inr (.inr rfl)))
    refine State.SameBut.setV ?_ _ (.inr (.inl rfl))
    refine State.SameBut.setFb ?_ _ fun r c => .inl ⟨r, c, rfl⟩
    exact State.SameBut.advancePc (.refl s _) (.inr (.inr (.inl rfl)))

/-- Settles O38: DRW leaves I, memory and the coordinates alone, so the second XORs the same sprite
bits again, and it turns a pixel off exactly where the first lit one. -/
theorem drawTwiceRestoresTheFramebuffer : Obligations.DrawTwiceRestoresTheFramebuffer := by
  intro x y n s hx hy hrange
  obtain ⟨t, ht, htpix, -, -, -, -, hframe⟩ := drawXorsTheSpriteAndReportsCollision x y n s hrange
  have hi : t.i = s.i := hframe.index (by simp)
  have hrows : spriteRows t n = spriteRows s n :=
    spriteRows_congr n hi fun a => hframe.bytes a (by simp)
  have hvx : t.getV x = s.getV x := hframe.regs x (by simpa using hx)
  have hvy : t.getV y = s.getV y := hframe.regs y (by simpa using hy)
  obtain ⟨u, hu, hupix, hset, hclear, -⟩ :=
    drawXorsTheSpriteAndReportsCollision x y n t (hi ▸ hrange)
  have hback : ∀ r c, onScreen r c → pixelAt u.fb r c = pixelAt s.fb r c := fun r c hs => by
    rw [hupix r c hs, htpix r c hs, hrows, hvx, hvy, Bool.xor_assoc, Bool.xor_self, Bool.xor_false]
  refine ⟨t, u, ht, hu, fb_ext fun r c => ?restored, Iff.trans ?lit (iff_flag_set hset hclear)⟩
  case restored =>
    by_cases hs : onScreen r c
    · exact hback r c hs
    · rw [pixelAt_off hs, pixelAt_off hs]
  case lit =>
    refine exists_congr fun r => exists_congr fun c => and_congr_right fun hs => ?_
    rw [htpix r c hs, hback r c hs]
    cases pixelAt s.fb r c <;> simp

end Sys2Proof

/-! # Control transfer (spec/41_control.md)

A jump and a conditional skip only choose the PC of an instruction that completes, so what each does
is said once, for any instruction that does it.  CALL and RET are read off `exec_call_ok` and
`exec_ret_ok`; that RET undoes CALL follows from what each of them does. -/

namespace Sys2Proof.Machine

/-! ## The frame of an update of PC, SP or the call stack -/

section
variable {s u : State} {may : Part → Prop}

theorem State.SameBut.setPc (h : s.SameBut u may) (w : Word) (hm : may .pc) :
    s.SameBut (u.setPc w) may :=
  { h with pc := fun hn => absurd hm hn }

theorem State.SameBut.setSp (h : s.SameBut u may) (b : Byte) (hm : may .sp) :
    s.SameBut (u.setSp b) may :=
  { h with sp := fun hn => absurd hm hn }

end

/-! ## The slots after a push (R24) -/

theorem State.pushed_slot_self (s : State) (w : Word) {k : Fin 16} (h : s.sp.toNat = k.val) :
    (s.pushed w).stack[k] = w := by
  simp [h]

theorem State.pushed_slot_ne (s : State) (w : Word) {k : Fin 16} (h : s.sp.toNat ≠ k.val) :
    (s.pushed w).stack[k] = s.stack[k] := by
  simp [h]

theorem State.SameBut.pushed {s u : State} {may : Part → Prop} (h : s.SameBut u may) (w : Word)
    (hsp : may .sp) (hslot : ∀ k : Fin 16, u.sp.toNat = k.val → may (.slot k)) :
    s.SameBut (u.pushed w) may :=
  { h with
    sp := fun hn => absurd hsp hn
    slots := fun k hn => (u.pushed_slot_ne w (mt (hslot k) hn)).trans (h.slots k hn) }

/-! ## Instructions that only choose PC -/

/-- An instruction whose handler only sets PC. -/
theorem next_of_exec_setPc {i : Instr} {s : State} {w : Word}
    (he : exec i s = completed i s (s.advancePc.setPc w)) :
    ∃ t, exec i s = .next t ∧ t.pc = w ∧ s.Traced t i ∧
      s.SameBut t (fun p => p = .pc ∨ p = .trace) := by
  refine ⟨_, he, rfl, traced_traceAppend rfl rfl, ?_⟩
  refine State.SameBut.traceAppend ?_ _ _ _ (.inr rfl)
  exact ((State.SameBut.refl s _).advancePc (.inl rfl)).setPc _ (.inl rfl)

/-- A skip after the fetch's advance only sets PC (R69, R88). -/
theorem State.advancePc_skipIf (s : State) (c : Bool) :
    s.advancePc.skipIf c = s.advancePc.setPc (if c then s.pc + 4 else s.pc + 2) := by
  cases c with
  | false => rfl
  | true => exact congrArg s.setPc (BitVec.add_assoc s.pc 2 2)

/-- An instruction whose handler only skips, on the condition that `c` tests. -/
theorem next_of_exec_skipIf {i : Instr} {s : State} {c : Bool} {cond : Prop} [Decidable cond]
    (he : exec i s = completed i s (s.advancePc.skipIf c)) (hc : c = true ↔ cond) :
    ∃ t, exec i s = .next t ∧ t.pc = (if cond then s.pc + 4 else s.pc + 2) ∧ s.Traced t i ∧
      s.SameBut t (fun p => p = .pc ∨ p = .trace) := by
  rw [State.advancePc_skipIf] at he
  simpa only [hc] using next_of_exec_setPc he

/-! ## Jump targets (R56, R87) -/

theorem wordOfAddr_toNat (nnn : Addr12) : (wordOfAddr nnn).toNat = nnn.toNat :=
  BitVec.toNat_setWidth_of_le (by decide)

/-- The sum of a 12-bit address and a byte fits 16 bits. -/
theorem offsetTarget_toNat (nnn : Addr12) (v0 : Byte) :
    (offsetTarget nnn v0).toNat = nnn.toNat + v0.toNat := by
  have hv : (v0.setWidth 16).toNat = v0.toNat := BitVec.toNat_setWidth_of_le (by decide)
  have hnnn := nnn.isLt
  have hv0 := v0.isLt
  rw [offsetTarget, BitVec.toNat_add, wordOfAddr_toNat, hv]
  omega

end Sys2Proof.Machine

namespace Sys2Proof

open Machine

/-- Settles O19: both jumps only set PC. -/
theorem jumpsSetPc : Obligations.JumpsSetPc := by
  intro nnn s
  constructor
  · obtain ⟨t, he, hpc, hrest⟩ := next_of_exec_setPc (exec_jp nnn s)
    exact ⟨t, he, hpc ▸ wordOfAddr_toNat nnn, hrest⟩
  · obtain ⟨t, he, hpc, hrest⟩ := next_of_exec_setPc (exec_jpV0 nnn s)
    exact ⟨t, he, hpc ▸ offsetTarget_toNat nnn (s.getV 0), hrest⟩

/-- Settles O20: CALL pushes the advanced PC, or fails the check of the push. -/
theorem callPushesTheAdvancedPc : Obligations.CallPushesTheAdvancedPc := by
  refine fun nnn s => ⟨fun k hk => ?completes, fun h => faulted_of_exec (exec_call_error nnn s h)⟩
  refine ⟨_, exec_call_ok nnn s (hk ▸ k.isLt), s.advancePc.pushed_slot_self _ hk, rfl,
    wordOfAddr_toNat nnn, traced_traceAppend rfl rfl, ?frame⟩
  refine State.SameBut.traceAppend ?_ _ _ _ (.inr (.inr (.inr rfl)))
  refine State.SameBut.setPc ?_ _ (.inr (.inr (.inl rfl)))
  refine State.SameBut.pushed ?_ _ (.inr (.inl rfl)) fun j hj => ?slot
  · exact (State.SameBut.refl s _).advancePc (.inr (.inr (.inl rfl)))
  case slot =>
    have hjk : j = k := Fin.ext (hj.symm.trans hk)
    exact .inl (congrArg Part.slot hjk)

/-- Settles O21: RET takes PC from the slot above SP, or fails the check of the pop. -/
theorem returnPopsPc : Obligations.ReturnPopsPc := by
  refine fun s => ⟨rfl, fun k hk => ?completes, fun h => faulted_of_exec (exec_ret_error s h)⟩
  have hslot : s.stack[(s.sp + 1).toNat]'(hk ▸ k.isLt) = s.stack[k] :=
    getElem_congr_idx hk
  refine ⟨_, exec_ret_ok s (hk ▸ k.isLt), hslot, rfl, traced_traceAppend rfl rfl, ?frame⟩
  refine State.SameBut.traceAppend ?_ _ _ _ (.inr (.inr rfl))
  refine State.SameBut.setPc ?_ _ (.inr (.inl rfl))
  refine State.SameBut.setSp ?_ _ (.inl rfl)
  exact (State.SameBut.refl s _).advancePc (.inr (.inl rfl))

/-- Settles O22: CALL leaves SP one below the slot it wrote, so RET pops that slot. -/
theorem callThenReturnComesBack : Obligations.CallThenReturnComesBack := by
  intro nnn s h
  obtain ⟨t, hcall, hpushed, htsp, -, -, htframe⟩ :=
    (callPushesTheAdvancedPc nnn s).1 ⟨s.sp.toNat, h⟩ rfl
  have hsp : t.sp + 1 = s.sp := by rw [htsp, BitVec.sub_add_cancel]
  obtain ⟨-, hpop, -⟩ := returnPopsPc t
  obtain ⟨u, hret, hupc, husp, -, huframe⟩ := hpop ⟨s.sp.toNat, h⟩ (congrArg BitVec.toNat hsp)
  refine ⟨t, u, hcall, hret, hupc.trans hpushed, husp.trans hsp, fun k hk => ?_⟩
  have hne : k ≠ ⟨s.sp.toNat, h⟩ := fun e => hk (congrArg Fin.val e)
  exact (huframe.slots k (by simp)).trans (htframe.slots k (by simpa using hne))

/-- Settles O23: the handler skips on the condition. -/
theorem immediateSkips : Obligations.ImmediateSkips := fun x nn s =>
  ⟨next_of_exec_skipIf (exec_seVxNn x nn s) beq_iff_eq,
    next_of_exec_skipIf (exec_sneVxNn x nn s) bne_iff_ne⟩

/-- Settles O24: the handler skips on the condition and does not see the ignored nibble. -/
theorem registerSkips : Obligations.RegisterSkips := fun x y ign s =>
  ⟨next_of_exec_skipIf (exec_seVxVy x y ign s) beq_iff_eq,
    next_of_exec_skipIf (exec_sneVxVy x y ign s) bne_iff_ne⟩

end Sys2Proof

/-! # Register file and ALU (spec/42_alu.md)

An instruction without a flag only writes VX, and one with a flag makes the two writes of R101; what
either kind does is said once, for any instruction that does it.  `exec_withVfOrder` runs an
instruction under two settings of VF_ORDER side by side. -/

namespace Sys2Proof.Machine

/-! ## The frame of a draw and of the two writes of R101 -/

section
variable {s u : State} {may : Part → Prop}

theorem State.SameBut.takeDraw (h : s.SameBut u may) (hm : may .draws) :
    s.SameBut u.takeDraw may :=
  { h with draws := fun hn => absurd hm hn }

theorem State.SameBut.writeResultAndFlag (h : s.SameBut u may) {x : Reg} (a : AluResult)
    (hx : may (.reg x)) (hf : may (.reg Reg.vf)) : s.SameBut (u.writeResultAndFlag x a) may := by
  unfold State.writeResultAndFlag
  split
  · exact (h.setV _ hx).setV _ hf
  · exact (h.setV _ hf).setV _ hx

end

/-! ## Instructions that write VX and no flag -/

/-- An instruction whose handler only writes VX. -/
theorem next_of_exec_setV {i : Instr} {s : State} {x : Reg} {b : Byte}
    (he : exec i s = completed i s (s.advancePc.setV x b)) :
    ∃ t, exec i s = .next t ∧ t.getV x = b ∧ t.pc = s.pc + 2 ∧ s.Traced t i ∧
      s.SameBut t (fun p => p = .reg x ∨ p = .pc ∨ p = .trace) := by
  refine ⟨_, he, State.setV_getV_self _ x b, rfl, traced_traceAppend rfl rfl, ?_⟩
  refine State.SameBut.traceAppend ?_ _ _ _ (.inr (.inr rfl))
  exact ((State.SameBut.refl s _).advancePc (.inr (.inl rfl))).setV _ (.inl rfl)

/-! ## Results and flags (R96 to R101) -/

section
variable (s : State) {x : Reg} (a : AluResult)

theorem State.writeResultAndFlag_getV_dest (h : x ≠ Reg.vf ∨ s.cfg.vfOrder = .resultLast) :
    (s.writeResultAndFlag x a).getV x = a.result :=
  (s.writeResultAndFlag_getV x x a).trans (if_pos ⟨rfl, h⟩)

theorem State.writeResultAndFlag_getV_vf (h : x ≠ Reg.vf ∨ s.cfg.vfOrder = .flagLast) :
    (s.writeResultAndFlag x a).getV Reg.vf = flagByte a.flag := by
  have hkept : ¬ (Reg.vf = x ∧ (x ≠ Reg.vf ∨ s.cfg.vfOrder = .resultLast)) := by
    rintro ⟨rfl, hlast⟩
    have hresultLast := hlast.resolve_left (fun hne => hne rfl)
    have hflagLast := h.resolve_left (fun hne => hne rfl)
    cases hresultLast.symm.trans hflagLast
  rw [State.writeResultAndFlag_getV, if_neg hkept, if_pos rfl]

/-- The two writes leave the result and the flag where R101 says. -/
theorem resultAndFlag_writeResultAndFlag {result : Nat} {flag : Prop}
    (hresult : a.result.toNat = result) (hflag : a.flag = true ↔ flag) :
    ResultAndFlag s (s.writeResultAndFlag x a) x result flag := by
  refine ⟨fun hx => ?result, fun h => ⟨fun hset => ?set, fun hclear => ?clear⟩,
    fun hx hlast => ?last⟩
  case result => rw [s.writeResultAndFlag_getV_dest a (.inl hx), hresult]
  case set => rw [s.writeResultAndFlag_getV_vf a h, hflag.2 hset]; rfl
  case clear =>
    have hoff : a.flag = false := Bool.eq_false_iff.2 (mt hflag.1 hclear)
    rw [s.writeResultAndFlag_getV_vf a h, hoff]
    rfl
  case last => rw [← hx, s.writeResultAndFlag_getV_dest a (.inr hlast), hresult]

end

/-- An instruction whose handler only makes the two writes of R101. -/
theorem next_of_exec_writeResultAndFlag {i : Instr} {s : State} {x : Reg} {a : AluResult}
    {result : Nat} {flag : Prop}
    (he : exec i s = completed i s (s.advancePc.writeResultAndFlag x a))
    (hresult : a.result.toNat = result) (hflag : a.flag = true ↔ flag) :
    ∃ t, exec i s = .next t ∧ ResultAndFlag s t x result flag ∧ t.pc = s.pc + 2 ∧
      s.Traced t i ∧
      s.SameBut t (fun p => p = .reg x ∨ p = .reg Reg.vf ∨ p = .pc ∨ p = .trace) := by
  refine ⟨_, he, resultAndFlag_writeResultAndFlag s.advancePc a hresult hflag, by simp,
    traced_traceAppend (by simp) (by simp), ?_⟩
  refine State.SameBut.traceAppend ?_ _ _ _ (.inr (.inr (.inr rfl)))
  refine State.SameBut.writeResultAndFlag ?_ _ (.inl rfl) (.inr (.inl rfl))
  exact (State.SameBut.refl s _).advancePc (.inr (.inr (.inl rfl)))

section
variable (a b : Byte)

theorem aluAdd_result_toNat : (aluAdd a b).result.toNat = (a.toNat + b.toNat) % 256 :=
  BitVec.toNat_ofNat _ 8

theorem aluAdd_flag_iff : (aluAdd a b).flag = true ↔ a.toNat + b.toNat > 255 := decide_eq_true_iff

theorem aluSub_result_toNat : (aluSub a b).result.toNat = (a.toNat + 256 - b.toNat) % 256 :=
  BitVec.toNat_ofNat _ 8

theorem aluSub_flag_iff : (aluSub a b).flag = true ↔ a.toNat ≥ b.toNat := decide_eq_true_iff

theorem aluShr_result_toNat : (aluShr a).result.toNat = a.toNat / 2 :=
  (BitVec.toNat_ushiftRight a 1).trans (Nat.shiftRight_one _)

theorem aluShr_flag_iff : (aluShr a).flag = true ↔ a.toNat % 2 = 1 := by
  simp [aluShr, BitVec.getLsbD, Nat.testBit_zero]

theorem aluShl_result_toNat : (aluShl a).result.toNat = a.toNat * 2 % 256 := by
  rw [aluShl, BitVec.toNat_shiftLeft, Nat.shiftLeft_eq]

/-- The top bit of a byte is the one bit that a byte of 128 or more has. -/
theorem aluShl_flag_iff : (aluShl a).flag = true ↔ a.toNat ≥ 128 := by
  have hmsb : (aluShl a).flag = a.msb := (BitVec.msb_eq_getLsbD_last a).symm
  rw [hmsb, BitVec.msb_eq_decide, decide_eq_true_iff]

end

/-! ## An instruction under two settings of VF_ORDER (R101) -/

section
variable (s : State) (o : VfOrder)

@[simp] theorem withVfOrder_bytesAt (a n : Nat) :
    (s.withVfOrder o).bytesAt a n = s.bytesAt a n := by
  induction n generalizing a with
  | zero => rfl
  | succ n ih => exact congrArg _ (ih (a + 1))

theorem withVfOrder_skipIf (c : Bool) :
    (s.withVfOrder o).skipIf c = (s.skipIf c).withVfOrder o := by
  cases c <;> rfl

/-- Two writes to different registers in either order. -/
theorem State.setV_comm {x y : Reg} (b c : Byte) (h : x ≠ y) :
    (s.setV x b).setV y c = (s.setV y c).setV x b :=
  congrArg s.setVs (Vector.set_comm b c (Fin.val_ne_of_ne h))

/-- With X ≠ F both orders of the two writes come to the same. -/
theorem State.writeResultAndFlag_of_ne {x : Reg} (a : AluResult) (hx : x ≠ Reg.vf) :
    s.writeResultAndFlag x a = (s.setV x a.result).setV Reg.vf (flagByte a.flag) := by
  unfold State.writeResultAndFlag
  split
  · rfl
  · exact (s.setV_comm _ _ hx).symm

theorem withVfOrder_writeResultAndFlag {x : Reg} (a : AluResult) (hx : x ≠ Reg.vf) :
    (s.withVfOrder o).writeResultAndFlag x a = (s.writeResultAndFlag x a).withVfOrder o := by
  rw [State.writeResultAndFlag_of_ne _ a hx, State.writeResultAndFlag_of_ne _ a hx]
  rfl

end

/-- An instruction that completes under both settings, with the same state but for the setting. -/
theorem exec_withVfOrder_of_completed {i : Instr} {s u u' : State} {o : VfOrder}
    (he : exec i s = completed i s u)
    (he' : exec i (s.withVfOrder o) = completed i (s.withVfOrder o) u')
    (hu : u' = u.withVfOrder o) :
    ∃ t, exec i s = .next t ∧ exec i (s.withVfOrder o) = .next (t.withVfOrder o) := by
  subst hu
  exact ⟨_, he, he'⟩

/-- An instruction runs alike under both settings, unless it writes its result and its flag to one
register. -/
theorem exec_withVfOrder (i : Instr) (s : State) (o : VfOrder)
    (hdest : i.flagAluDest ≠ some Reg.vf) :
    ∃ t, exec i s = .next t ∧ exec i (s.withVfOrder o) = .next (t.withVfOrder o) := by
  cases i with
  | addVxVy x | subVxVy x | shrVx x | subnVxVy x | shlVx x =>
    have hx : x ≠ Reg.vf := fun e => hdest (congrArg some e)
    exact exec_withVfOrder_of_completed rfl rfl
      (withVfOrder_writeResultAndFlag s.advancePc o _ hx)
  | seVxNn | sneVxNn | seVxVy | sneVxVy =>
    exact exec_withVfOrder_of_completed rfl rfl (withVfOrder_skipIf s.advancePc o _)
  | ret =>
    rcases Nat.lt_or_ge (s.sp + 1).toNat 16 with h | h
    · exact ⟨_, exec_ret_ok s h, exec_ret_ok (s.withVfOrder o) h⟩
    · exact ⟨_, exec_ret_error s h, exec_ret_error (s.withVfOrder o) h⟩
  | call nnn =>
    rcases Nat.lt_or_ge s.sp.toNat 16 with h | h
    · exact ⟨_, exec_call_ok nnn s h, exec_call_ok nnn (s.withVfOrder o) h⟩
    · exact ⟨_, exec_call_error nnn s h, exec_call_error nnn (s.withVfOrder o) h⟩
  | drw x y n =>
    by_cases h : n = 0 ∨ s.i.toNat + n ≤ memSize
    · refine exec_withVfOrder_of_completed (exec_drw_ok x y n s h)
        (exec_drw_ok x y n (s.withVfOrder o) h) ?_
      rw [withVfOrder_bytesAt]
      rfl
    · obtain ⟨h0, hlt⟩ := not_or.1 h
      have hlt := Nat.not_le.1 hlt
      exact ⟨_, exec_drw_error x y n s h0 hlt, exec_drw_error x y n (s.withVfOrder o) h0 hlt⟩
  | skp x =>
    rcases Nat.lt_or_ge (s.getV x).toNat 16 with h | h
    · exact exec_withVfOrder_of_completed (exec_skp_ok x s h) (exec_skp_ok x (s.withVfOrder o) h)
        (withVfOrder_skipIf s.advancePc o _)
    · exact ⟨_, exec_skp_error x s h, exec_skp_error x (s.withVfOrder o) h⟩
  | sknp x =>
    rcases Nat.lt_or_ge (s.getV x).toNat 16 with h | h
    · exact exec_withVfOrder_of_completed (exec_sknp_ok x s h) (exec_sknp_ok x (s.withVfOrder o) h)
        (withVfOrder_skipIf s.advancePc o _)
    · exact ⟨_, exec_sknp_error x s h, exec_sknp_error x (s.withVfOrder o) h⟩
  | ldVxK x =>
    cases hk : s.lowestKey with
    | none =>
      have hup := (State.lowestKey_none s).1 hk
      exact ⟨_, exec_ldVxK_none x s hup, exec_ldVxK_none x (s.withVfOrder o) hup⟩
    | some n =>
      obtain ⟨k, -, hdown, hlow⟩ := (State.lowestKey_some s n).1 hk
      exact ⟨_, exec_ldVxK_some x k s hdown hlow,
        exec_ldVxK_some x k (s.withVfOrder o) hdown hlow⟩
  | ldBVx x =>
    rcases Nat.lt_or_ge (s.i.toNat + 2) memSize with h | h
    · exact ⟨_, exec_ldBVx_ok x s h, exec_ldBVx_ok x (s.withVfOrder o) h⟩
    · exact ⟨_, exec_ldBVx_error x s h, exec_ldBVx_error x (s.withVfOrder o) h⟩
  | ldMemVx x =>
    rcases Nat.lt_or_ge (s.i.toNat + x.val) memSize with h | h
    · exact ⟨_, exec_ldMemVx_ok x s h, exec_ldMemVx_ok x (s.withVfOrder o) h⟩
    · exact ⟨_, exec_ldMemVx_error x s h, exec_ldMemVx_error x (s.withVfOrder o) h⟩
  | ldVxMem x =>
    rcases Nat.lt_or_ge (s.i.toNat + x.val) memSize with h | h
    · refine exec_withVfOrder_of_completed (exec_ldVxMem_ok x s h)
        (exec_ldVxMem_ok x (s.withVfOrder o) h) ?_
      rw [withVfOrder_bytesAt]
      rfl
    · exact ⟨_, exec_ldVxMem_error x s h, exec_ldVxMem_error x (s.withVfOrder o) h⟩
  | _ => exact ⟨_, rfl, rfl⟩

/-! ## The bits of a masked draw (R104) -/

/-- Taking the low byte after the mask is taking it before. -/
theorem maskedDraw_getLsbD (d : BitVec 32) (nn : Byte) {k : Nat} (hk : k < 8) :
    ((d &&& nn.setWidth 32).setWidth 8).getLsbD k = (d.getLsbD k && nn.getLsbD k) := by
  have hk32 : k < 32 := Nat.lt_trans hk (by decide)
  simp only [BitVec.getLsbD_setWidth, BitVec.getLsbD_and, hk, hk32, decide_true, Bool.true_and]

end Sys2Proof.Machine

namespace Sys2Proof

open Machine

/-- The sum of fields is the word of LD Vx, nn (R62). -/
theorem word_eq_encode_ldVxNn (x : Reg) (nn : Byte) :
    BitVec.ofNat 16 (0x6000 + 256 * x.val + nn.toNat) = encode (.ldVxNn x nn) := by
  have hfields : (encode (.ldVxNn x nn)).toNat = 0x6 * 4096 + x.val * 256 + nn.toNat :=
    encodeXNN_toNat 0x6 x nn
  apply BitVec.eq_of_toNat_eq
  rw [BitVec.toNat_ofNat, hfields]
  omega

/-- Settles O14: the handler makes the two writes of R101 with the sum and its carry. -/
theorem addRegistersWithCarry : Obligations.AddRegistersWithCarry := fun x y s =>
  next_of_exec_writeResultAndFlag (exec_addVxVy x y s) (aluAdd_result_toNat _ _)
    (aluAdd_flag_iff _ _)

/-- Settles O15: SUB and SUBN subtract alike, with the operands exchanged. -/
theorem subtractRegistersWithNotBorrow : Obligations.SubtractRegistersWithNotBorrow :=
  fun x y s =>
    ⟨next_of_exec_writeResultAndFlag (exec_subVxVy x y s) (aluSub_result_toNat _ _)
        (aluSub_flag_iff _ _),
      next_of_exec_writeResultAndFlag (exec_subnVxVy x y s) (aluSub_result_toNat _ _)
        (aluSub_flag_iff _ _)⟩

/-- Settles O16: the handlers shift VX and do not see the ignored nibble. -/
theorem shiftRegisterByOne : Obligations.ShiftRegisterByOne := fun x ign s =>
  ⟨next_of_exec_writeResultAndFlag (exec_shrVx x ign s) (aluShr_result_toNat _)
      (aluShr_flag_iff _),
    next_of_exec_writeResultAndFlag (exec_shlVx x ign s) (aluShl_result_toNat _)
      (aluShl_flag_iff _)⟩

/-- Settles O17: the two writes to different registers come to the same in either order, and nothing
else reads VF_ORDER. -/
theorem vfOrderMattersOnlyForVfDestination : Obligations.VfOrderMattersOnlyForVfDestination := by
  intro i s t o hdest h
  obtain ⟨u, hu, hu'⟩ := exec_withVfOrder i s o hdest
  cases hu.symm.trans h
  exact hu'

/-- Settles O11: the word is the encoding, and the handler writes NN. -/
theorem loadImmediateWritesVx : Obligations.LoadImmediateWritesVx := by
  intro x nn s
  rw [word_eq_encode_ldVxNn]
  exact ⟨decode_encode rfl, next_of_exec_setV (exec_ldVxNn x nn s)⟩

/-- Settles O12: the sum of two bytes is modulo 256. -/
theorem addImmediateWrapsWithoutFlag : Obligations.AddImmediateWrapsWithoutFlag := by
  intro x nn s
  obtain ⟨t, he, hv, hrest⟩ := next_of_exec_setV (exec_addVxNn x nn s)
  exact ⟨t, he, hv ▸ BitVec.toNat_add (s.getV x) nn, hrest⟩

/-- Settles O13: each of the four handlers writes VX with its operation, which works bit by bit. -/
theorem registerMoveAndLogic : Obligations.RegisterMoveAndLogic := by
  intro x y s
  refine ⟨next_of_exec_setV (exec_ldVxVy x y s), ?or, ?and, ?xor⟩
  case or =>
    obtain ⟨t, he, hv, hrest⟩ := next_of_exec_setV (exec_orVxVy x y s)
    exact ⟨t, he, fun _ => hv ▸ BitVec.getLsbD_or, hrest⟩
  case and =>
    obtain ⟨t, he, hv, hrest⟩ := next_of_exec_setV (exec_andVxVy x y s)
    exact ⟨t, he, fun _ => hv ▸ BitVec.getLsbD_and, hrest⟩
  case xor =>
    obtain ⟨t, he, hv, hrest⟩ := next_of_exec_setV (exec_xorVxVy x y s)
    exact ⟨t, he, fun _ => hv ▸ BitVec.getLsbD_xor, hrest⟩

/-- Settles O18: the handler takes one draw and writes its masked low byte to VX. -/
theorem randomWritesTheMaskedDraw : Obligations.RandomWritesTheMaskedDraw := by
  intro x nn s
  refine ⟨_, exec_rnd x nn s, fun k hk => ?bits, rfl, rfl, traced_traceAppend rfl rfl, ?frame⟩
  case bits =>
    have hv := State.setV_getV_self s.advancePc.takeDraw x
      ((s.nextDraw &&& nn.setWidth 32).setWidth 8)
    exact (congrArg (·.getLsbD k) hv).trans (maskedDraw_getLsbD s.nextDraw nn hk)
  case frame =>
    refine State.SameBut.traceAppend ?_ _ _ _ (.inr (.inr (.inl rfl)))
    refine State.SameBut.setV ?_ _ (.inl rfl)
    refine State.SameBut.takeDraw ?_ (.inr (.inr (.inr rfl)))
    exact (State.SameBut.refl s _).advancePc (.inr (.inl rfl))

end Sys2Proof

/-! # Index register and memory (spec/43_index_memory.md)

LD I, ADD I and LD F only set I; what such an instruction does is said once.  LD B and LD [I], Vx
store a list of bytes at I, LD Vx, [I] loads one, and what each does is read off the byte or the
register at one place of the list.  That a load undoes a dump follows from what each of them
does. -/

namespace Sys2Proof.Machine

/-! ## The frame of an update of I, of a store and of a register range -/

section
variable {s u : State} {may : Part → Prop}

theorem State.SameBut.setI (h : s.SameBut u may) (w : Word) (hm : may .index) :
    s.SameBut (u.setI w) may :=
  { h with index := fun hn => absurd hm hn }

theorem State.SameBut.storeBytes (h : s.SameBut u may) (a : Nat) (bs : List Byte)
    (hm : ∀ k, k < bs.length → may (.byte (a + k))) : s.SameBut (u.storeBytes a bs) may :=
  { h with
    bytes := fun c hn => by
      have hout : ¬ (a ≤ c ∧ c < a + bs.length) := fun ⟨hlo, hhi⟩ =>
        hn (Nat.add_sub_cancel' hlo ▸ hm (c - a) (by omega))
      exact (u.storeBytes_readByte a c bs).trans ((dif_neg hout).trans (h.bytes c hn)) }

theorem State.SameBut.loadVs (h : s.SameBut u may) (bs : List Byte)
    (hm : ∀ r : Reg, r.val < bs.length → may (.reg r)) :
    s.SameBut (u.setVs (loadFrom s.v 0 bs)) may :=
  { h with
    regs := fun r hn => by
      have hout : ¬ (0 ≤ r.val ∧ r.val < 0 + bs.length) := fun hin => hn (hm r (by omega))
      exact (loadFrom_getElem s.v 0 bs r r.isLt).trans (dif_neg hout) }

end

/-! ## Instructions that only set I -/

/-- An instruction whose handler only sets I. -/
theorem next_of_exec_setI {i : Instr} {s : State} {w : Word}
    (he : exec i s = completed i s (s.advancePc.setI w)) :
    ∃ t, exec i s = .next t ∧ t.i = w ∧ t.pc = s.pc + 2 ∧ s.Traced t i ∧
      s.SameBut t (fun p => p = .index ∨ p = .pc ∨ p = .trace) := by
  refine ⟨_, he, rfl, rfl, traced_traceAppend rfl rfl, ?_⟩
  refine State.SameBut.traceAppend ?_ _ _ _ (.inr (.inr rfl))
  exact ((State.SameBut.refl s _).advancePc (.inr (.inl rfl))).setI _ (.inl rfl)

/-- The glyph address of any byte fits 16 bits (R108). -/
theorem glyphAddr_toNat (vx : Byte) : (glyphAddr vx).toNat = 0x100 + 5 * vx.toNat := by
  have hvx := vx.isLt
  exact Nat.mod_eq_of_lt (show 0x100 + 5 * vx.toNat < 65536 by omega)

/-- I plus a byte, modulo 2^16 (R107). -/
theorem add_setWidth_toNat (i : Word) (vx : Byte) :
    (i + vx.setWidth 16).toNat = (i.toNat + vx.toNat) % 65536 := by
  rw [BitVec.toNat_add, BitVec.toNat_setWidth_of_le (by decide)]

/-! ## The bytes of a store and the registers of a load -/

/-- The byte at place `k` of a store. -/
theorem State.storeBytes_readByte_add (s : State) (a : Nat) {bs : List Byte} {k : Nat}
    (hk : k < bs.length) : (s.storeBytes a bs).readByte (a + k) = bs[k] := by
  rw [State.storeBytes_readByte, dif_pos ⟨Nat.le_add_right a k, Nat.add_lt_add_left hk a⟩]
  exact getElem_congr_idx (Nat.add_sub_cancel_left a k)

/-- The bytes of a store of digits are the hundreds, tens and ones (R109). -/
theorem State.storeBytes_bcdDigits_toNat (s : State) (a : Nat) (v : Byte) :
    ((s.storeBytes a (bcdDigits v)).readByte a).toNat = v.toNat / 100 ∧
    ((s.storeBytes a (bcdDigits v)).readByte (a + 1)).toNat = v.toNat / 10 % 10 ∧
    ((s.storeBytes a (bcdDigits v)).readByte (a + 2)).toNat = v.toNat % 10 := by
  have hv := v.isLt
  have hdigit {k : Nat} (hk : k < 3) :
      ((s.storeBytes a (bcdDigits v)).readByte (a + k)).toNat = ((bcdDigits v)[k]'hk).toNat :=
    congrArg BitVec.toNat (s.storeBytes_readByte_add a (bs := bcdDigits v) hk)
  refine ⟨(hdigit (k := 0) (by decide)).trans (Nat.mod_eq_of_lt ?hundreds),
    (hdigit (k := 1) (by decide)).trans (Nat.mod_eq_of_lt ?tens),
    (hdigit (k := 2) (by decide)).trans (Nat.mod_eq_of_lt ?ones)⟩
  all_goals omega

/-- Register `k` of a load of V0..VX from `a` on. -/
theorem loadFrom_bytesAt_getElem (s : State) (v : Vector Byte 16) (a : Nat) {x k : Reg}
    (hk : k ≤ x) : (loadFrom v 0 (s.bytesAt a (x.val + 1)))[k] = s.readByte (a + k.val) := by
  have hlt : k.val < x.val + 1 := Nat.lt_succ_of_le hk
  have hin : 0 ≤ k.val ∧ k.val < 0 + (s.bytesAt a (x.val + 1)).length := by
    rw [State.bytesAt_length]
    omega
  exact (loadFrom_getElem v 0 _ k k.isLt).trans
    ((dif_pos hin).trans (s.bytesAt_getElem a (x.val + 1) k hlt))

end Sys2Proof.Machine

namespace Sys2Proof

open Machine

/-- The sum of fields is the word of LD I, nnn (R62). -/
theorem word_eq_encode_ldINnn (nnn : Addr12) :
    BitVec.ofNat 16 (0xA000 + nnn.toNat) = encode (.ldINnn nnn) := by
  have hfields : (encode (.ldINnn nnn)).toNat = 0xA * 4096 + nnn.toNat := encodeNNN_toNat 0xA nnn
  apply BitVec.eq_of_toNat_eq
  rw [BitVec.toNat_ofNat, hfields]
  omega

/-- Settles O30: the handler stores the three digits at I. -/
theorem bcdStoresThreeDigits : Obligations.BcdStoresThreeDigits := by
  intro x s h
  obtain ⟨hhundreds, htens, hones⟩ :=
    s.advancePc.storeBytes_bcdDigits_toNat s.i.toNat (s.getV x)
  refine ⟨_, exec_ldBVx_ok x s h, hhundreds, htens, hones, rfl, traced_traceAppend rfl rfl,
    ?frame⟩
  refine State.SameBut.traceAppend ?_ _ _ _ (.inr (.inr (.inr (.inr rfl))))
  refine State.SameBut.storeBytes ?_ _ _ fun k hk => ?place
  · exact (State.SameBut.refl s _).advancePc (.inr (.inr (.inr (.inl rfl))))
  case place =>
    match k, hk with
    | 0, _ => exact .inl rfl
    | 1, _ => exact .inr (.inl rfl)
    | 2, _ => exact .inr (.inr (.inl rfl))

/-- Settles O31: the handler stores V0..VX at I. -/
theorem registerDumpStoresV0ToVx : Obligations.RegisterDumpStoresV0ToVx := by
  intro x s h
  refine ⟨_, exec_ldMemVx_ok x s h, fun k hk => s.advancePc.storeBytes_dumpV_readByte s _ hk, rfl,
    traced_traceAppend rfl rfl, ?frame⟩
  refine State.SameBut.traceAppend ?_ _ _ _ (.inr (.inr rfl))
  refine State.SameBut.storeBytes ?_ _ _ fun k hk => ?place
  · exact (State.SameBut.refl s _).advancePc (.inr (.inl rfl))
  case place =>
    have hkx : k < x.val + 1 := s.dumpV_length x ▸ hk
    exact .inl ⟨⟨k, Nat.lt_of_lt_of_le hkx x.isLt⟩, Nat.le_of_lt_succ hkx, rfl⟩

/-- Settles O32: the handler loads the bytes at I into V0..VX. -/
theorem registerLoadFillsV0ToVx : Obligations.RegisterLoadFillsV0ToVx := by
  intro x s h
  refine ⟨_, exec_ldVxMem_ok x s h, fun k hk => loadFrom_bytesAt_getElem s s.v s.i.toNat hk, rfl,
    traced_traceAppend rfl rfl, ?frame⟩
  refine State.SameBut.traceAppend ?_ _ _ _ (.inr (.inr rfl))
  refine State.SameBut.loadVs ?_ _ fun r hr => ?range
  · exact (State.SameBut.refl s _).advancePc (.inr (.inl rfl))
  case range =>
    have hrx : r.val < x.val + 1 := s.bytesAt_length s.i.toNat (x.val + 1) ▸ hr
    exact .inl ⟨r, Nat.le_of_lt_succ hrx, rfl⟩

/-- Settles O34: the load gives Vk the byte that the dump gave its place. -/
theorem dumpThenLoadRestoresRegisters : Obligations.DumpThenLoadRestoresRegisters := by
  intro x s t u hs hu hdump hbytes
  obtain ⟨t', ht', hstored, -⟩ := registerDumpStoresV0ToVx x s hs
  cases ht'.symm.trans hdump
  obtain ⟨w, hw, hloaded, -⟩ := registerLoadFillsV0ToVx x u hu
  refine ⟨w, hw, fun k hk => ?_⟩
  calc w.getV k = u.readByte (u.i.toNat + k.val) := hloaded k hk
    _ = t.readByte (s.i.toNat + k.val) := hbytes k hk
    _ = s.getV k := hstored k hk

/-- Settles O28: the word is the encoding, and the handler sets I to NNN. -/
theorem loadIndexSetsI : Obligations.LoadIndexSetsI := by
  intro nnn s
  rw [word_eq_encode_ldINnn]
  obtain ⟨t, he, hi, hrest⟩ := next_of_exec_setI (exec_ldINnn nnn s)
  exact ⟨decode_encode rfl, t, he, hi ▸ wordOfAddr_toNat nnn, hrest⟩

/-- Settles O29: both handlers only set I. -/
theorem addToIndexAndGlyphAddress : Obligations.AddToIndexAndGlyphAddress := by
  intro x s
  constructor
  · obtain ⟨t, he, hi, hrest⟩ := next_of_exec_setI (exec_addIVx x s)
    exact ⟨t, he, hi ▸ add_setWidth_toNat s.i (s.getV x), hrest⟩
  · obtain ⟨t, he, hi, hrest⟩ := next_of_exec_setI (exec_ldFVx x s)
    exact ⟨t, he, hi ▸ glyphAddr_toNat (s.getV x), hrest⟩

end Sys2Proof

/-! # Keypad and timers (spec/44_keypad_timers.md)

SKP and SKNP are skips on the key VX, LD Vx, K with a key pressed and LD Vx, DT only write VX, and
LD Vx, K with no key pressed takes the fetch's advance of PC back.  LD DT, Vx and LD ST, Vx each
write one timer. -/

namespace Sys2Proof.Machine

/-! ## The frame of an update of a timer -/

section
variable {s u : State} {may : Part → Prop}

theorem State.SameBut.setDt (h : s.SameBut u may) (b : Byte) (hm : may .dt) :
    s.SameBut (u.setDt b) may :=
  { h with dt := fun hn => absurd hm hn }

theorem State.SameBut.setSt (h : s.SameBut u may) (b : Byte) (hm : may .st) :
    s.SameBut (u.setSt b) may :=
  { h with st := fun hn => absurd hm hn }

end

/-! ## The key wait (R115) -/

/-- Taking PC back after the fetch's advance leaves the state as it was, at every PC (R20, R69). -/
theorem State.advancePc_rollBackPc (s : State) : s.advancePc.rollBackPc = s :=
  congrArg s.setPc (BitVec.add_sub_cancel s.pc 2)

/-- A key's index fits a byte. -/
theorem key_toNat (k : Reg) : (BitVec.ofNat 8 k.val).toNat = k.val :=
  Nat.mod_eq_of_lt (Nat.lt_trans k.isLt (by decide))

end Sys2Proof.Machine

namespace Sys2Proof

open Machine

/-- The sum of fields is the word of format `XNN` (R54). -/
theorem ofNat_eq_encodeXNN (op : Nibble) (x : Reg) (nn : Byte) :
    BitVec.ofNat 16 (op.toNat * 4096 + nn.toNat + 256 * x.val) = encodeXNN op x nn := by
  have hsum : op.toNat * 4096 + nn.toNat + 256 * x.val = (encodeXNN op x nn).toNat := by
    rw [encodeXNN_toNat]
    omega
  rw [hsum, BitVec.ofNat_toNat, BitVec.setWidth_eq]

/-- Settles O25: the words are the encodings, and both handlers skip on the key VX or fail its
check. -/
theorem keySkips : Obligations.KeySkips := by
  intro x s
  refine ⟨?skpWord, ?sknpWord, fun k hk => ?skips, fun h => ?faults⟩
  case skpWord =>
    exact (congrArg decode (ofNat_eq_encodeXNN 0xE x 0x9E)).trans (decode_encode (i := .skp x) rfl)
  case sknpWord =>
    exact (congrArg decode (ofNat_eq_encodeXNN 0xE x 0xA1)).trans
      (decode_encode (i := .sknp x) rfl)
  case skips =>
    have hlt : (s.getV x).toNat < 16 := hk ▸ k.isLt
    have hkey : s.keypad[(s.getV x).toNat] = s.keypad[k] := getElem_congr_idx hk
    exact ⟨next_of_exec_skipIf (exec_skp_ok x s hlt) (by rw [hkey]),
      next_of_exec_skipIf (exec_sknp_ok x s hlt) (by rw [hkey, Bool.not_eq_true'])⟩
  case faults =>
    exact ⟨faulted_of_exec (exec_skp_error x s h), faulted_of_exec (exec_sknp_error x s h)⟩

/-- Settles O26: with no key pressed the handler takes the advance of PC back, otherwise it writes
the lowest pressed key to VX. -/
theorem keyWaitSpinsOrTakesTheLowestKey : Obligations.KeyWaitSpinsOrTakesTheLowestKey := by
  refine fun x s => ⟨fun hup => ?spins, fun k hdown hlow => ?takes⟩
  case spins =>
    have he := exec_ldVxK_none x s hup
    rw [State.advancePc_rollBackPc] at he
    exact ⟨_, he, rfl, traced_traceAppend rfl rfl,
      (State.SameBut.refl s _).traceAppend _ _ _ rfl⟩
  case takes =>
    obtain ⟨t, he, hv, hrest⟩ := next_of_exec_setV (exec_ldVxK_some x k s hdown hlow)
    exact ⟨t, he, hv ▸ key_toNat k, hrest⟩

/-- Settles O27: each handler makes its one copy. -/
theorem timerInstructions : Obligations.TimerInstructions := by
  intro x s
  refine ⟨next_of_exec_setV (exec_ldVxDt x s), ?toDt, ?toSt⟩
  case toDt =>
    refine ⟨_, exec_ldDtVx x s, rfl, rfl, traced_traceAppend rfl rfl, ?_⟩
    refine State.SameBut.traceAppend ?_ _ _ _ (.inr (.inr rfl))
    exact ((State.SameBut.refl s _).advancePc (.inr (.inl rfl))).setDt _ (.inl rfl)
  case toSt =>
    refine ⟨_, exec_ldStVx x s, rfl, rfl, traced_traceAppend rfl rfl, ?_⟩
    refine State.SameBut.traceAppend ?_ _ _ _ (.inr (.inr rfl))
    exact ((State.SameBut.refl s _).advancePc (.inr (.inl rfl))).setSt _ (.inl rfl)

end Sys2Proof

/-! # Faults and the host's transactions (spec/60_exceptions.md)

Each transaction is said once: what it answers, what it changes, and that it keeps the invariant.  A
run is one transaction after another, so a property of runs is proved by induction on the list. -/

namespace Sys2Proof.Machine

/-! ## STEP (R67, R129) -/

/-- `exec` and `step` never answer a fault or a refusal of the host's `Outcome` (log entry 6). -/
theorem step_eq_next (s : State) : ∃ t, step s = .next t := by
  rcases step_cases s with ⟨-, he⟩ | ⟨-, -, he⟩ | ⟨-, -, w, -, ⟨-, he⟩ | ⟨i, -, he⟩⟩
  · exact ⟨_, he⟩
  · exact ⟨_, he⟩
  · exact ⟨_, he⟩
  · rcases exec_completes_or_ownCheck i s with ⟨u, hu, -⟩ | ⟨f, hu, -⟩
    · exact ⟨_, he.trans hu⟩
    · exact ⟨_, he.trans hu⟩

theorem transact_step {s t : State} (h : step s = .next t) :
    transact (.loaded s) .step = .next (.loaded t, t.stepReply) := by
  simp only [transact, State.stepTransaction, h]

/-! ## INIT (R143, R144) -/

/-- INIT of a program that fits is accepted, and depends on the block only by its parameters and its
count of draws. -/
theorem transact_init_accepted {d : Device} {cfg : Config} {n : Nat} {p : List Byte}
    (hd : d.holds cfg n) (hp : p.length ≤ progMax) :
    transact d (.init p) = .next (.loaded (initState cfg n p), .ok) := by
  have hfit : ¬ progMax < p.length := Nat.not_lt.2 hp
  cases d with
  | unloaded =>
    obtain ⟨rfl, rfl⟩ := hd
    simp only [transact, Device.init, if_neg hfit]
  | loaded =>
    obtain ⟨rfl, rfl⟩ := hd
    simp only [transact, Device.init, if_neg hfit]

theorem transact_init_rejected (d : Device) {p : List Byte} (hp : progMax < p.length) :
    transact d (.init p) = .next (d, .loadReject) := by
  simp only [transact, Device.init, if_pos hp]

theorem Device.exists_holds (d : Device) : ∃ cfg n, d.holds cfg n := by
  cases d <;> exact ⟨_, _, rfl, rfl⟩

/-! ## TICK and SET_KEY (R133, R135) -/

theorem tickTimer_zero : tickTimer 0 = 0 := rfl

theorem tickTimer_ne_zero {b : Byte} (h : b ≠ 0) : tickTimer b = b - 1 := if_neg h

/-- On naturals a tick is the subtraction that stops at 0. -/
theorem tickTimer_toNat (b : Byte) : (tickTimer b).toNat = b.toNat - 1 := by
  by_cases h : b = 0
  · rw [h, tickTimer_zero]
    rfl
  · rw [tickTimer_ne_zero h]
    bv_omega

theorem State.tick_sameBut (s : State) : s.SameBut s.tick (fun p => p = .dt ∨ p = .st) :=
  ((State.SameBut.refl s _).setDt _ (.inl rfl)).setSt _ (.inr rfl)

theorem State.SameBut.setKeypad {s u : State} {may : Part → Prop} (h : s.SameBut u may) (k : Reg)
    (p : Bool) (hm : may .keypad) : s.SameBut (u.setKeypad k p) may :=
  { h with keypad := fun hn => absurd hm hn }

theorem State.setKey_sameBut (s : State) (k : Reg) (p : Bool) :
    s.SameBut (s.setKey k p) (fun q => q = .keypad) :=
  (State.SameBut.refl s _).setKeypad k p rfl

theorem State.setKey_keypad_self (s : State) (k : Reg) (p : Bool) :
    (s.setKey k p).keypad[k] = p :=
  Vector.getElem_set_self k.isLt

theorem State.setKey_keypad_ne (s : State) (p : Bool) {j k : Reg} (h : j ≠ k) :
    (s.setKey k p).keypad[j] = s.keypad[j] :=
  Vector.getElem_set_ne k.isLt j.isLt (Fin.val_ne_of_ne h.symm)

/-! ## The invariant of the block -/

theorem initState_inv (cfg : Config) (n : Nat) {p : List Byte} (hp : p.length ≤ progMax) :
    (initState cfg n p).Inv := by
  have hroom : progBase + p.length ≤ memSize := Nat.add_le_add_left hp progBase
  have hsp : spLegal (initState cfg n p).sp := .inl (show (15 : Byte).toNat < 16 by decide)
  exact ⟨memoryOfBytes_wf cfg.font p progBase hroom, hsp, rfl, fun h => Bool.noConfusion h, hp⟩

/-- The invariant speaks of no timer. -/
theorem State.Inv.tick {s : State} (hs : s.Inv) : s.tick.Inv := hs

/-- The invariant speaks of no key. -/
theorem State.Inv.setKey {s : State} (hs : s.Inv) (k : Reg) (p : Bool) : (s.setKey k p).Inv := hs

theorem State.Inv.restart {s : State} (hs : s.Inv) : s.restart.Inv := by
  obtain ⟨-, -, -, -, hrom⟩ := hs
  exact initState_inv s.cfg s.rngIndex hrom

theorem transact_init_inv {d d' : Device} {p : List Byte} {r : Reply} (hd : d.Inv)
    (h : transact d (.init p) = .next (d', r)) : d'.Inv := by
  rcases Nat.lt_or_ge progMax p.length with hlong | hfit
  · cases (transact_init_rejected d hlong).symm.trans h
    exact hd
  · obtain ⟨cfg, n, hholds⟩ := d.exists_holds
    cases (transact_init_accepted hholds hfit).symm.trans h
    exact initState_inv cfg n hfit

/-- One transaction, whichever it is, keeps the invariant of the block; a block never loaded accepts
INIT only. -/
theorem transact_inv {d d' : Device} {t : Transaction} {r : Reply} (hd : d.Inv)
    (h : transact d t = .next (d', r)) : d'.Inv := by
  cases d with
  | unloaded =>
    cases t with
    | init p => exact transact_init_inv hd h
    | _ => cases h
  | loaded s =>
    cases t with
    | init p => exact transact_init_inv hd h
    | reset => cases h; exact State.Inv.restart hd
    | step =>
      obtain ⟨u, hu⟩ := step_eq_next s
      cases (transact_step hu).symm.trans h
      exact everyStepKeepsTheInvariant s u hd hu
    | tick => cases h; exact State.Inv.tick hd
    | setKey k p => cases h; exact State.Inv.setKey hd k p
    | read => cases h; exact hd

/-! ## Runs (R127) -/

theorem transactAll_cons {d d₁ : Device} {t : Transaction} {r : Reply}
    (h : transact d t = .next (d₁, r)) (ts : List Transaction) :
    transactAll d (t :: ts) = transactAll d₁ ts := by
  simp only [transactAll, h]

/-- The inversion of a run that is accepted: its first transaction is, and the rest from there. -/
theorem transactAll_cons_inv {d d' : Device} {t : Transaction} {ts : List Transaction}
    (h : transactAll d (t :: ts) = .next d') :
    ∃ d₁ r, transact d t = .next (d₁, r) ∧ transactAll d₁ ts = .next d' := by
  cases ht : transact d t with
  | next a => exact ⟨a.1, a.2, rfl, (transactAll_cons ht ts).symm.trans h⟩
  | fault f => simp [transactAll, ht] at h
  | refused r => simp [transactAll, ht] at h

/-! ## The idle state (R141) -/

/-- The word 1NNN at the address NNN is the JP to its own address. -/
theorem add_pc_eq_encode_jp {pc : Word} (h : pc.toNat < memSize) :
    0x1000 + pc = encode (.jp (pc.setWidth 12)) ∧ wordOfAddr (pc.setWidth 12) = pc := by
  have haddr : (pc.setWidth 12).toNat = pc.toNat :=
    (BitVec.toNat_setWidth ..).trans (Nat.mod_eq_of_lt h)
  have hword : (encode (.jp (pc.setWidth 12))).toNat = 0x1 * 4096 + (pc.setWidth 12).toNat :=
    encodeNNN_toNat 0x1 _
  constructor
  · apply BitVec.eq_of_toNat_eq
    rw [hword, haddr]
    bv_omega
  · apply BitVec.eq_of_toNat_eq
    rw [wordOfAddr_toNat, haddr]

/-- What an idle state fetches. -/
theorem State.idle_fetches_jp_self {s : State} (h : s.idle = true) :
    s.pc.toNat + 1 < memSize ∧ ∃ nnn, wordOfAddr nnn = s.pc ∧
      decode (wordOfBytes (s.readByte s.pc.toNat) (s.readByte (s.pc.toNat + 1))) =
        .ok (.jp nnn) := by
  obtain ⟨hle, hfetch⟩ : s.pc.toNat ≤ 0xFFE ∧
      wordOfBytes (s.readByte s.pc.toNat) (s.readByte (s.pc.toNat + 1)) = 0x1000 + s.pc := by
    simpa [State.idle] using h
  have hpc : s.pc.toNat + 1 < memSize := Nat.succ_lt_succ (Nat.lt_succ_of_le hle)
  obtain ⟨hword, hself⟩ := add_pc_eq_encode_jp (Nat.lt_of_succ_lt hpc)
  exact ⟨hpc, _, hself, by rw [hfetch, hword]; exact decode_encode rfl⟩

/-- A JP to its own address undoes the fetch's advance of PC, which leaves the trace record. -/
theorem exec_jp_self {nnn : Addr12} {s : State} (h : wordOfAddr nnn = s.pc) :
    exec (.jp nnn) s = completed (.jp nnn) s s := by
  rw [exec_jp, h]
  rfl

end Sys2Proof.Machine

namespace Sys2Proof

open Machine

/-- Settles O46: by induction on the run, each transaction keeps the invariant. -/
theorem everyTransactionSequenceKeepsTheInvariant :
    Obligations.EveryTransactionSequenceKeepsTheInvariant := by
  intro ts
  induction ts with
  | nil =>
    intro d d' hd h
    cases h
    exact hd
  | cons t ts ih =>
    intro d d' hd h
    obtain ⟨d₁, r, ht, hrest⟩ := transactAll_cons_inv h
    exact ih d₁ d' (transact_inv hd ht) hrest

/-- Settles O8: the STEP ends in the fault entry of decode's refusal, and its reply is read off the
record. -/
theorem unimplementedWordFaults : Obligations.UnimplementedWordFaults := by
  intro s w hrun hpc hw hd
  have he := step_of_decode_error hrun hpc hw.symm hd
  exact ⟨_, he, rfl, transact_step he⟩

/-- Settles O9: no case of a STEP is a fault or a refusal of the host's `Outcome`. -/
theorem everyStepAnswersANextState : Obligations.EveryStepAnswersANextState :=
  step_eq_next

/-- Settles O48: TICK applies `tickTimer` to each timer. -/
theorem tickDecrementsNonzeroTimers : Obligations.TickDecrementsNonzeroTimers :=
  fun s => ⟨s.tick, rfl, tickTimer_ne_zero, fun h => (congrArg tickTimer h).trans tickTimer_zero,
    tickTimer_ne_zero, fun h => (congrArg tickTimer h).trans tickTimer_zero, s.tick_sameBut⟩

/-- Settles O49: by induction on the number of ticks, each of which takes one or stays at 0. -/
theorem timersCountTicksDownToZero : Obligations.TimersCountTicksDownToZero := by
  intro n
  induction n with
  | zero => exact fun s => ⟨s, rfl, rfl, rfl⟩
  | succ n ih =>
    intro s
    obtain ⟨t, hrun, hdt, hst⟩ := ih s.tick
    have hdt₁ : s.tick.dt.toNat = s.dt.toNat - 1 := tickTimer_toNat s.dt
    have hst₁ : s.tick.st.toNat = s.st.toNat - 1 := tickTimer_toNat s.st
    exact ⟨t, (transactAll_cons rfl _).trans hrun, by omega, by omega⟩

/-- Settles O50: SET_KEY sets one entry of the keypad. -/
theorem setKeyWritesOneKey : Obligations.SetKeyWritesOneKey :=
  fun s k p => ⟨s.setKey k p, rfl, s.setKey_keypad_self k p, fun _ h => s.setKey_keypad_ne p h,
    s.setKey_sameBut k p⟩

/-- Settles O51: the views are the fields of the state. -/
theorem readReturnsTheViews : Obligations.ReadReturnsTheViews :=
  fun s => ⟨s.views, rfl, rfl, rfl, rfl, rfl, rfl, rfl, rfl, rfl, rfl, rfl, rfl, rfl⟩

/-- Settles O47: only STEP looks at FAULT, and INIT and RESET at nothing but the parameters, the
count of draws and the program. -/
theorem haltedBlock : Obligations.HaltedBlock := by
  intro s hhalt
  refine ⟨?step, ⟨s.tick, rfl, tickTimer_toNat s.dt, tickTimer_toNat s.st, s.tick_sameBut⟩,
    setKeyWritesOneKey s, rfl, rfl, fun p hp => ?init, fun hrom => ?reset⟩
  case step =>
    have hreply : s.stepReply = .fault s.fault.cause := if_pos hhalt
    exact hreply ▸ transact_step (step_of_halted hhalt)
  case init =>
    exact ⟨_, transact_init_accepted ⟨rfl, rfl⟩ hp, rfl, transact_init_accepted ⟨rfl, rfl⟩ hp⟩
  case reset =>
    exact ⟨s.restart, rfl, rfl, transact_init_accepted ⟨rfl, rfl⟩ hrom⟩

/-- Settles O56: the STEP runs a JP to its own address, and idleness reads only PC and memory. -/
theorem idleStepChangesOnlyTheTrace : Obligations.IdleStepChangesOnlyTheTrace := by
  intro s hidle hrun
  obtain ⟨hpc, nnn, hself, hd⟩ := State.idle_fetches_jp_self hidle
  exact ⟨_, (step_of_decode hrun hpc rfl hd).trans (exec_jp_self hself),
    (State.SameBut.refl s _).traceAppend _ _ _ rfl, hidle⟩

end Sys2Proof

/-! # Reset (spec/70_reset_and_hazards.md)

INIT leaves one state, `initState`, of which memory and the trace need a lemma; the reset state is the
case of the empty program. -/

namespace Sys2Proof.Machine

/-! ## The memory INIT leaves (R43, R143) -/

/-- A glyph byte inside the font's 80 addresses, 0 outside. -/
theorem unlistedByte_eq_getD (font : Font) (a : Nat) :
    unlistedByte font a =
      if fontBase ≤ a ∧ a < fontBase + fontSize then font.toList.getD (a - fontBase) 0 else 0 := by
  unfold unlistedByte
  split
  · next h =>
    have hlen : a - fontBase < font.toList.length := by
      rw [Vector.length_toList]
      exact Nat.sub_lt_left_of_lt_add h.1 h.2
    rw [List.getD_eq_getElem _ _ hlen, Vector.getElem_toList]
  · rfl

/-- The font ends below the program, so which of the two is asked first does not matter. -/
theorem initState_readByte (cfg : Config) (n : Nat) (p : List Byte) (a : Nat) :
    (initState cfg n p).readByte a =
      if fontBase ≤ a ∧ a < fontBase + fontSize then cfg.font.toList.getD (a - fontBase) 0
      else if progBase ≤ a ∧ a < progBase + p.length then p.getD (a - progBase) 0 else 0 := by
  have hread : (initState cfg n p).readByte a =
      if h : progBase ≤ a ∧ a < progBase + p.length then p[a - progBase]
      else unlistedByte cfg.font a := memoryRead_ofBytes cfg.font p progBase a
  rw [hread, unlistedByte_eq_getD]
  split
  · next h =>
    have hfont : ¬ (fontBase ≤ a ∧ a < fontBase + fontSize) := fun hf =>
      absurd (Nat.lt_of_le_of_lt h.1 hf.2) (by decide)
    rw [if_neg hfont, List.getD_eq_getElem]
  · rfl

/-! ## The reset state (R157) -/

theorem initState_traceInv (cfg : Config) (n : Nat) (p : List Byte) :
    (initState cfg n p).TraceInv := by
  intro k
  have hzero : (initState cfg n p).trace[k] = TraceRecord.zero := Vector.getElem_replicate k.isLt
  rw [hzero]
  rfl

/-- `State.reset` is INIT of the empty program (log entries 1, 2 and 3). -/
theorem initState_nil : initState Config.default 0 [] = State.reset := rfl

/-- No row of the opcode map fits the word 0. -/
theorem decode_zero : decode 0 = .error (.unimplemented 0) := rfl

theorem step_reset : step State.reset = .next (State.reset.takeFault (.unimplemented 0) 0) :=
  step_of_decode_error rfl (by decide) rfl decode_zero

end Sys2Proof.Machine

namespace Sys2Proof

open Machine

/-- Settles O52: memory reads as the font, the program and 0, and every other field is the reset
state's. -/
theorem initLeavesTheResetState : Obligations.InitLeavesTheResetState := by
  intro d cfg n p hd hp
  exact ⟨initState cfg n p, transact_init_accepted hd hp, fun a _ => initState_readByte cfg n p a,
    fun r => Vector.getElem_replicate r.isLt, fun k => Vector.getElem_replicate k.isLt,
    fun k => Vector.getElem_replicate k.isLt, fun k => Vector.getElem_replicate k.isLt,
    rfl, rfl, rfl, rfl, rfl, fun y x _ => pixelAt_blank y x, rfl, rfl, rfl, rfl, rfl⟩

/-- Settles O43: it is INIT of the empty program, and INIT establishes both invariants. -/
theorem resetStateMeetsTheInvariants : Obligations.ResetStateMeetsTheInvariants := by
  unfold Obligations.ResetStateMeetsTheInvariants
  rw [← initState_nil]
  exact ⟨initState_inv _ _ (Nat.zero_le progMax), initState_traceInv _ _ _⟩

/-- Settles O53: the length check comes first. -/
theorem oversizedProgramIsRejected : Obligations.OversizedProgramIsRejected :=
  fun d _ hp => transact_init_rejected d hp

/-- Settles O54: RESET leaves `restart`, which is the state of INIT from ROM_IMAGE. -/
theorem resetRerunsInitFromRomImage : Obligations.ResetRerunsInitFromRomImage :=
  fun s hrom => ⟨s.restart, rfl, transact_init_accepted ⟨rfl, rfl⟩ hrom⟩

/-- Settles O55: by cases on the transaction. -/
theorem transactionsBeforeInitAreRefused : Obligations.TransactionsBeforeInitAreRefused := by
  intro cfg n t ht
  cases t with
  | init p => exact absurd rfl (ht p)
  | reset | step | tick | setKey | read => rfl

/-- Settles O57: the first fetch reads the word 0, which decode refuses. -/
theorem emptyProgramFaultsAtTheFirstStep : Obligations.EmptyProgramFaultsAtTheFirstStep :=
  ⟨initState_nil ▸ transact_init_accepted ⟨rfl, rfl⟩ (Nat.zero_le progMax),
    _, step_reset, rfl, rfl⟩

end Sys2Proof
